-- ==== Sys2Proof/Word.lean ====
section
/-! DEFINITION. The word types: a byte, the 16-bit word of the Modbus side and the 32-bit pattern of a field
value (spec/30_encoding.md R82). Nothing in the block is signed (spec/00_scope.md R11). -/

namespace Sys2Proof

/-- A byte, 0 to 255; bit 0 is the least significant (spec/00_scope.md R10, R11). -/
abbrev Byte := BitVec 8

/-- A 16-bit word: a register address, a count, a register's contents, a CRC-16. -/
abbrev U16 := BitVec 16

/-- A 32-bit pattern: one field value, an IEEE-754 binary32 pattern (spec/30_encoding.md R94). -/
abbrev U32 := BitVec 32

end Sys2Proof
end

