-- ==== Sys2Proof/Syntax.lean ====
section
/-! DEFINITION. The instructions: one constructor per row of spec/opcode_table.json. The first sixteen are the
block's operations (spec/30_encoding.md R81), the next three its pseudo-operations (R106), the last six the rows
for wire formats and payload vocabularies (log entries 14, 15, 16 say what these nine stand for here). -/

namespace Sys2Proof

/-- The four status codes of a Response frame, by name (spec/30_encoding.md R111). -/
inductive StatusCode where
  | ok | error | unsupported | busy
  deriving DecidableEq, Repr

/-- The twelve command names, in the order the spec lists them (spec/30_encoding.md R110). -/
inductive CommandName where
  | ping | setRate | setFields | sleep | mainOnline | wifiConnect
  | status | version | reboot | debug | poll | snapshot
  deriving DecidableEq, Repr

/-- The four kinds of frame (spec/30_encoding.md R85). Neither encoder nor parser inspects them. -/
inductive FrameType where
  | telemetry | command | response | event
  deriving DecidableEq, Repr

/-- One row of the opcode table with its operands (spec/30_encoding.md R82). -/
inductive Instr where
  /-- `CRC8.CLR` (R128). -/
  | crc8Clr
  /-- `CRC8.UPD b` (R129). -/
  | crc8Upd (b : Byte)
  /-- `CRC8.RD` (R130). -/
  | crc8Rd
  /-- `CRC16.CLR` (R131). -/
  | crc16Clr
  /-- `CRC16.UPD b` (R132). -/
  | crc16Upd (b : Byte)
  /-- `CRC16.RD` (R133). -/
  | crc16Rd
  /-- `MB.REQ slave, addr, count` (R140). -/
  | mbReq (slave : Byte) (addr count : U16)
  /-- `MB.RXB b`, issued by the `mb_rx` stream (R145). -/
  | mbRxb (b : Byte)
  /-- `MB.TMO`, issued by the timeout source (R147). -/
  | mbTmo
  /-- `MB.CHK` (R150). -/
  | mbChk
  /-- `LF.ENC type, seq, payload` (R170). -/
  | lfEnc (type seq : Byte) (payload : List Byte)
  /-- `FB.PACK mask, vals, present` (R176). -/
  | fbPack (mask : Nat) (vals : List U32) (present : List Bool)
  /-- `FB.UNPACK mask, bytes` (R180). -/
  | fbUnpack (mask : Nat) (bytes : List Byte)
  /-- `LP.FEED b`, issued by the `link_rx` stream or by the host on its behalf (R190). -/
  | lpFeed (b : Byte)
  /-- `LP.RDC n` (R209). -/
  | lpRdc (n : Nat)
  /-- `LP.RST` (R210). -/
  | lpRst
  /-- `MB.READ slave, addr, count` (R153). `rx` is the environment's part of the expansion (R106): the bytes
  that `mb_rx` delivers before the timeout would fire, in order (log entry 14). -/
  | mbRead (slave : Byte) (addr count : U16) (rx : List Byte)
  /-- `LP.FEEDN [b0, ..., bk]` (R207). -/
  | lpFeedn (bytes : List Byte)
  /-- `LF.DEC bytes` (R208). -/
  | lfDec (bytes : List Byte)
  /-- `LINKFRAME` (R83): one frame arriving on `link_rx` (log entry 15). -/
  | linkFrame (type seq : Byte) (payload : List Byte)
  /-- `MB_REQ_ADU` (R89): one request ADU going out on `mb_tx` (log entry 15). -/
  | mbReqAdu (slave : Byte) (addr count : U16)
  /-- `MB_RSP_ADU` (R90): one response ADU arriving on `mb_rx` (log entry 15). -/
  | mbRspAdu (slave : Byte) (words : List U16)
  /-- `FIELD_BLOCK` (R92): the field block of a mask and its values (log entry 15). -/
  | fieldBlock (mask : Nat) (vals : List U32) (present : List Bool)
  /-- `STATUS_CODES` (R111): the byte of a status code (log entry 16). -/
  | statusCodes (code : StatusCode)
  /-- `COMMAND_NAMES` (R110): the identifier of a command name (log entry 16). -/
  | commandNames (name : String)
  deriving DecidableEq, Repr

end Sys2Proof
end

