-- ==== Sys2Proof/Config.lean ====
section
/-! DEFINITION. The constants the spec fixes (spec/00_scope.md R8), the parameters it leaves open (R9), and the free
values: constants without a body, of which nothing can be proved but what holds for every value. -/

namespace Sys2Proof

namespace Config

/-- `START`, the first byte of a LinkFrame (R8). -/
abbrev startByte : Byte := 0xAA
/-- `END`, the last byte of a LinkFrame (R8). -/
abbrev endByte : Byte := 0x55
/-- `VERSION`, the protocol version byte (R8). -/
abbrev version : Byte := 0x01
/-- `MAX_PAYLOAD`, the largest LinkFrame payload in bytes (R8). -/
abbrev maxPayload : Nat := 240
/-- `CRC8_POLY`, used from the most significant bit (R8). -/
abbrev crc8Poly : Byte := 0x31
/-- `CRC8_INIT` (R8). -/
abbrev crc8Init : Byte := 0x00
/-- `CRC16_POLY`, used from the least significant bit (R8). -/
abbrev crc16Poly : U16 := 0xA001
/-- `CRC16_INIT` (R8). -/
abbrev crc16Init : U16 := 0xFFFF
/-- `MB_FUNC`, the only Modbus function code (R8). -/
abbrev mbFunc : Byte := 0x03
/-- `MB_SLAVE_DEFAULT` (R8); the slave id is an operand of `MB.REQ`, so no rule reads this. -/
abbrev mbSlaveDefault : Byte := 1
/-- `MB_TIMEOUT_MS`, default 100 (R9): informative, no rule reads it (D10; log entry 21). -/
abbrev mbTimeoutMs : Nat := 100
/-- The largest `N_FIELDS` the spec admits (R9). -/
abbrev maxFields : Nat := 60

end Config

/-- The parameters of R9 on which a rule depends. They are fixed before the first operation and never change
(spec/70_reset_and_hazards.md R263); the model carries them in State so that every statement about every state
holds for every value of them (log entry 11). -/
structure Params where
  /-- `CTR_W`, the width in bits of each LinkParser counter (D15). -/
  ctrW : Nat
  /-- `N_FIELDS`, the number of fields a FieldMask ranges over (D20). -/
  nFields : Nat
  /-- `MB_COUNT_MAX`, the largest `count` that `MB.REQ` accepts (D35). -/
  mbCountMax : Nat
  /-- `FB_NAN`, the pattern `FB.PACK` emits for an absent value (D19). -/
  fbNan : U32
  deriving DecidableEq, Repr

namespace Config

/-- The spec's defaults (R9). `N_FIELDS` has none: 60 is the model's DESIGN CHOICE (log entry 11). -/
def defaultParams : Params := { ctrW := 32, nFields := 60, mbCountMax := 65535, fbNan := 0x7FC00000 }

/-- Free: whether the write of the `n`-th request fails (spec/41_modbus.md R142, U3; log entry 5). -/
opaque writeFails : Nat → Bool

/-- Free: how many bytes of a failed write reached the wire, capped at the ADU's eight (U2; log entry 6). -/
opaque writtenBytes : Nat → Nat

/-- Free: what `mb_slave` holds once a transaction has ended (U5; log entry 8). -/
opaque staleSlave : Nat → Byte
/-- Free: what `mb_count` holds once a transaction has ended (U5; log entry 8). -/
opaque staleCount : Nat → U16
/-- Free: what `mb_need` holds once a transaction has ended, brought into its range 5 to 131075 where it is used
(R27, U5; log entry 8). -/
opaque staleNeed : Nat → Nat
/-- Free: what `mb_buf` holds once a transaction has ended (U5, spec/60_exceptions.md R226; log entry 8). -/
opaque staleResponse : Nat → List Byte

/-- Free: what `lp_ver` holds after a frame reset (spec/43_linkparser.md R191, U6; log entry 9). -/
opaque staleVer : Nat → Byte
/-- Free: what `lp_type` holds after a frame reset (R191, U6; log entry 9). -/
opaque staleType : Nat → Byte
/-- Free: what `lp_seq` holds after a frame reset (R191, U6; log entry 9). -/
opaque staleSeq : Nat → Byte
/-- Free: what `lp_len` holds after a frame reset (R191, U6; log entry 9). -/
opaque staleLen : Nat → Byte
/-- Free: what `lp_buf` holds after a frame reset (R191, U6; log entry 9). -/
opaque stalePayload : Nat → Vector Byte 240

/-- Free: a permutation of the bytes, from which the open type codes are read (log entry 12). -/
opaque typePerm : Equiv.Perm Byte
/-- Free: a permutation of the bytes, from which the open command identifiers are read (log entry 12). -/
opaque commandPerm : Equiv.Perm Byte

end Config

end Sys2Proof
end

