-- ==== Sys2Proof/Machine/State.lean ====
section
/-! DEFINITION. Everything the spec gives the machine (spec/10_state.md), as plain data; the ports and streams on which
operations act (spec/20_memory.md R60, D2); the outcomes of operations (spec/00_scope.md R7, spec/60_exceptions.md
R221). INVENTORY.md lists every field with its rule and its reset value. -/

namespace Sys2Proof.Machine

/-- `mb_state` (spec/10_state.md R25). -/
inductive MbState where
  /-- No transaction is in flight. -/
  | idle
  /-- A request has been written and the response is being accumulated. -/
  | recv
  deriving DecidableEq, Repr

/-- `lp_stage` (spec/10_state.md R30). -/
inductive Stage where
  /-- `WAIT`: scans for START. -/
  | wait
  /-- `HDR0`: the version byte comes next. -/
  | hdr0
  /-- `HDR1`: the type byte comes next. -/
  | hdr1
  /-- `HDR2`: the sequence byte comes next. -/
  | hdr2
  /-- `HDR3`: the length byte comes next. -/
  | hdr3
  /-- `PAYLOAD`. -/
  | payload
  /-- `CHECKSUM`. -/
  | checksum
  /-- `END`. -/
  | endMark
  deriving DecidableEq, Repr

/-- An emitted frame (spec/43_linkparser.md R206): without START, LENGTH, CRC8 and END (spec/90_conflicts.md C5). -/
structure Frame where
  version : Byte
  type : Byte
  seq : Byte
  payload : List Byte
  deriving DecidableEq, Repr

/-- One field that `FB.UNPACK` reports (spec/42_linkframe_encode.md R180). -/
structure FieldValue where
  index : Nat
  value : U32
  absent : Bool
  deriving DecidableEq, Repr

/-- The kinds of failure (spec/60_exceptions.md R221). -/
inductive ErrKind where
  | errWrite | errTimeout | errCrc16 | errAddrFunc | errLength | errPayloadLen | errFbLen
  deriving DecidableEq, Repr

/-- What the result-status output says of an operation that ended: ok, or a failure (spec/60_exceptions.md R221). -/
inductive Status where
  | ok
  | failed (kind : ErrKind)
  deriving DecidableEq, Repr

/-- The result of an operation (spec/30_encoding.md R82). -/
inductive Value where
  /-- No result. -/
  | none
  /-- `CRC8.RD`, `STATUS_CODES`. -/
  | byte (b : Byte)
  /-- `CRC16.RD`. -/
  | word (w : U16)
  /-- `LF.ENC`, `FB.PACK`, `FIELD_BLOCK`; `MB_RSP_ADU`: the bytes that stay in the stream. -/
  | bytes (s : List Byte)
  /-- `MB.CHK`. -/
  | words (ws : List U16)
  /-- `FB.UNPACK`. -/
  | fields (fs : List FieldValue)
  /-- `LP.FEED`, `LP.FEEDN`: the frames emitted, in order. -/
  | frames (fs : List Frame)
  /-- `LF.DEC`: the frames emitted, in order, and the three counters (spec/43_linkparser.md R208). -/
  | decoded (fs : List Frame) (framing length crc : Nat)
  /-- `LP.RDC`. -/
  | counter (n : Nat)
  /-- Recorded with `ERR_TIMEOUT`: `mb_cnt` at the time (spec/60_exceptions.md R221). -/
  | received (n : Nat)
  /-- `COMMAND_NAMES`: an identifier, or 'no such command' (spec/30_encoding.md R110). -/
  | command (id : Option Byte)
  deriving DecidableEq, Repr

/-- The outcome of the last operation that ended: its status and its result. -/
structure Reply where
  status : Status
  value : Value
  deriving DecidableEq, Repr

/-- The CRC unit's state (spec/10_state.md section 2). -/
structure CrcUnit where
  /-- `c8` (R23). -/
  c8 : Byte
  /-- `c16` (R24). -/
  c16 : U16
  deriving DecidableEq, Repr

/-- The Modbus codec's state (spec/10_state.md section 3). -/
structure ModbusPort where
  /-- `mb_state` (R25). -/
  state : MbState
  /-- `mb_slave` (R26). -/
  slave : Byte
  /-- `mb_count` (R26). -/
  count : U16
  /-- `mb_need` (R27). -/
  need : Nat
  /-- `mb_cnt` (R28). -/
  cnt : Nat
  /-- `mb_buf` (R29). -/
  buf : List Byte
  /-- The model's own: how many free values the codec has drawn (log entries 5 and 8). -/
  draws : Nat
  deriving DecidableEq, Repr

/-- One LinkParser instance (spec/10_state.md sections 4 and 5, R39). -/
structure LinkParser where
  /-- `lp_stage` (R30). -/
  stage : Stage
  /-- `lp_ver` (R31). -/
  ver : Byte
  /-- `lp_type` (R31). -/
  type : Byte
  /-- `lp_seq` (R31). -/
  seq : Byte
  /-- `lp_len` (R31). -/
  len : Byte
  /-- `lp_idx` (R32). -/
  idx : Nat
  /-- `lp_buf` (R33). -/
  buf : Vector Byte 240
  /-- `ctr_framing`, counter 0 (R34). -/
  ctrFraming : Nat
  /-- `ctr_length`, counter 1 (R34). -/
  ctrLength : Nat
  /-- `ctr_crc`, counter 2 (R34). -/
  ctrCrc : Nat
  /-- The model's own: how many free values the parser has drawn (log entry 9). -/
  draws : Nat
  deriving DecidableEq, Repr

/-- The block and its ports. The sub-units' states are disjoint (spec/20_memory.md R66). -/
structure State where
  /-- The CRC unit. -/
  crc : CrcUnit
  /-- The Modbus codec. -/
  mb : ModbusPort
  /-- The LinkParser. -/
  lp : LinkParser
  /-- The host operation port (D2): the bytes of the operations still to be taken (log entries 1 and 2). -/
  port : List Byte
  /-- `link_tx`: the bytes sent on it so far (spec/20_memory.md R60; log entry 18). -/
  linkTx : List Byte
  /-- `mb_tx`: the bytes sent on it so far (R60; log entry 18). -/
  mbTx : List Byte
  /-- The emit output: the frames delivered on it so far (spec/43_linkparser.md R206; log entry 18). -/
  emits : List Frame
  /-- The outcome of the last operation (spec/60_exceptions.md R221; log entry 18). -/
  reply : Reply
  /-- The parameters (spec/00_scope.md R9): no step writes them (log entry 11). -/
  par : Params
  deriving DecidableEq, Repr

/-- What stops the machine with a fault: nothing. A failure is the outcome of one operation, after which the sub-unit
is at once ready for its next (spec/60_exceptions.md R227), so it is a next state (log entry 4). -/
inductive Fault where
  deriving DecidableEq, Repr

/-- Why an operation is refused: its precondition does not hold, no state changes, and the run has no meaning from
there (spec/00_scope.md R7, spec/60_exceptions.md R226, D11). Every one is safe: the model stops where the spec gives
no meaning. -/
inductive Refusal where
  /-- An arm of `exec` without a meaning; no arm is (safe). -/
  | notModelled (mnemonic : String)
  /-- `step`: no agent offers an operation and no transaction is in flight: the run is quiescent and over
  (spec/70_reset_and_hazards.md R280) (safe; log entry 1). -/
  | noOperation
  /-- `step`: no agent offers an operation while a transaction is in flight: the run stops unfinished, since `MB.RXB`,
  `MB.TMO` or `MB.CHK` is still enabled (R280) (safe; log entry 1). -/
  | unfinishedRun
  /-- `step`: the code is none of the sixteen (spec/30_encoding.md R104) (safe). -/
  | unknownOp (op : Byte)
  /-- `step`: the operand bytes are not all there; the layout is the model's (safe; log entry 2). -/
  | truncatedOperation
  /-- `step`: a presence flag that is no flag; the layout is the model's (safe; log entry 2). -/
  | badFlag (flag : Byte)
  /-- `MB.REQ`, `MB.READ`, `MB_REQ_ADU`: a transaction is in flight (spec/41_modbus.md R141) (safe). -/
  | transactionInFlight
  /-- `MB.REQ`, `MB.READ`, `MB_REQ_ADU`: `count > MB_COUNT_MAX` (R141) (safe). -/
  | countAboveMax
  /-- `MB.RXB`: no transaction, or all bytes received: R145 refuses the operation, and the byte stays in the stream
  (R146, spec/92_eei_decisions.md D34) (safe). -/
  | receiveNotEnabled
  /-- `MB.TMO`: no transaction, or all bytes received (R147) (safe). -/
  | timeoutNotEnabled
  /-- `MB.CHK`: no transaction, or bytes missing (R150) (safe). -/
  | checkNotEnabled
  /-- `FB.PACK`, `FB.UNPACK`, `FIELD_BLOCK`: a mask bit at or above `N_FIELDS` (spec/42_linkframe_encode.md R176, R180)
  (safe). -/
  | maskTooWide
  /-- `LP.RDC n` with `n > 2` (spec/43_linkparser.md R209) (safe). -/
  | noSuchCounter
  /-- `LINKFRAME`, `MB_RSP_ADU`: more payload bytes or words than the length byte can say, so there is no such frame
  (spec/30_encoding.md R83, R90) (safe; log entry 15). -/
  | notOnWire
  deriving DecidableEq, Repr

/-- The host's three outcomes for this machine. -/
abbrev Outcome := Host.Outcome State Fault Refusal

/-- The state after reset (spec/10_state.md R38, spec/70_reset_and_hazards.md R260). The fields that R38 leaves
unspecified have the values of log entry 7, the model's own fields those of entries 3, 5, 9, 11 and 18. -/
def State.reset : State where
  crc := { c8 := 0x00, c16 := 0xFFFF }
  mb := { state := .idle, slave := 0, count := 0, need := 5, cnt := 0, buf := [], draws := 0 }
  lp :=
    { stage := .wait, ver := 0, type := 0, seq := 0, len := 0, idx := 0, buf := Vector.replicate 240 0,
      ctrFraming := 0, ctrLength := 0, ctrCrc := 0, draws := 0 }
  port := []
  linkTx := []
  mbTx := []
  emits := []
  reply := { status := .ok, value := .none }
  par := Config.defaultParams

end Sys2Proof.Machine
end

