-- ==== Sys2Proof/Machine/Flags.lean ====
section
/-! DEFINITION. The block has no flags register and no condition codes (spec/10_state.md R36): what other hardware
reports in flags is the outcome of each operation, whose codes stand here (spec/60_exceptions.md R221, D23). -/

namespace Sys2Proof.Machine

/-- The code of a failure kind on the result-status output (R221). -/
def errCode : ErrKind → Byte
  | .errWrite => 0x01
  | .errTimeout => 0x02
  | .errCrc16 => 0x03
  | .errAddrFunc => 0x04
  | .errLength => 0x05
  | .errPayloadLen => 0x06
  | .errFbLen => 0x07

/-- The code of a status on the result-status output (R221). -/
def statusCode : Status → Byte
  | .ok => 0x00
  | .failed kind => errCode kind

/-- The code of an outcome on the result-status output (R221): a refused operation shows 0xFF. The block never ends in
a fault of the host's kind. -/
def outcomeCode : Outcome → Byte
  | .next s => statusCode s.reply.status
  | .fault r => nomatch r
  | .refused _ => 0xFF

end Sys2Proof.Machine
end

