-- ==== Sys2Proof/Machine/Checksum.lean ====
section
/-! DEFINITION. The two checksum functions (spec/40_crc.md): pure functions that every sub-unit uses. -/

namespace Sys2Proof.Machine

/-- One of the eight iterations of R120: the test of bit 0 comes before the shift. -/
def crc16Shift (c : U16) : U16 :=
  if c.getLsbD 0 then (c >>> 1) ^^^ Config.crc16Poly else c >>> 1

/-- `crc16_step(c, b)` (R120): the byte enters the low byte, then eight iterations. -/
def crc16Step (c : U16) (b : Byte) : U16 := crc16Shift^[8] (c ^^^ b.setWidth 16)

/-- `crc16(s)` (R121): the left fold of the step from 0xFFFF, with no final exclusive-or. -/
def crc16 (s : List Byte) : U16 := s.foldl crc16Step Config.crc16Init

/-- One of the eight iterations of R125: the test of bit 7 comes before the shift, which keeps 8 bits. -/
def crc8Shift (c : Byte) : Byte :=
  if c.getLsbD 7 then (c <<< 1) ^^^ Config.crc8Poly else c <<< 1

/-- `crc8_step(c, b)` (R125): the byte is exclusive-ored into the register (D5), then eight iterations. -/
def crc8Step (c b : Byte) : Byte := crc8Shift^[8] (c ^^^ b)

/-- `crc8(s)` (R126): the left fold of the step from 0x00, with no final exclusive-or and no reflection
(spec/90_conflicts.md C1: the procedure, not the name CRC-8/MAXIM). -/
def crc8 (s : List Byte) : Byte := s.foldl crc8Step Config.crc8Init

end Sys2Proof.Machine
end

