-- ==== Sys2Proof/Machine/Operands.lean ====
section
/-! DEFINITION. Operand forms: byte orders (spec/00_scope.md R13, spec/20_memory.md R54 to R57), the assembly of
multi-byte values (spec/30_encoding.md R91), field masks and field values (R92 to R94), and the payload vocabularies
(R85, R110, R111). -/

namespace Sys2Proof.Machine

/-- `hi(w) = w[15:8]` (spec/00_scope.md R11). -/
def hi (w : U16) : Byte := w.extractLsb' 8 8

/-- `lo(w) = w[7:0]` (spec/00_scope.md R11). -/
def lo (w : U16) : Byte := w.extractLsb' 0 8

/-- `be16(w) = [hi(w), lo(w)]` (spec/00_scope.md R13). -/
def be16 (w : U16) : List Byte := [hi w, lo w]

/-- `le16(w) = [lo(w), hi(w)]` (spec/00_scope.md R13). -/
def le16 (w : U16) : List Byte := [lo w, hi w]

/-- `le32(v)`: the four bytes of a pattern, the least significant first (spec/00_scope.md R13). -/
def le32 (v : U32) : List Byte :=
  [v.extractLsb' 0 8, v.extractLsb' 8 8, v.extractLsb' 16 8, v.extractLsb' 24 8]

/-- A 16-bit word from its high and its low byte: `(h << 8) | l` (spec/30_encoding.md R91). -/
def word16 (h l : Byte) : U16 := (h.setWidth 16 <<< 8) ||| l.setWidth 16

/-- A 32-bit pattern from its four bytes: `b0 | (b1 << 8) | (b2 << 16) | (b3 << 24)`
(spec/42_linkframe_encode.md R180). -/
def word32 (b0 b1 b2 b3 : Byte) : U32 :=
  b0.setWidth 32 ||| (b1.setWidth 32 <<< 8) ||| (b2.setWidth 32 <<< 16) ||| (b3.setWidth 32 <<< 24)

/-- `s[i]` (spec/00_scope.md R10). Outside the sequence, where no rule reads, it is 0 (log entry 19). -/
def byteAt (s : List Byte) (i : Nat) : Byte := s.getD i 0

/-- `isnan32(v)`: `v[30:23] = 0xFF and v[22:0] != 0` (spec/00_scope.md R13). -/
def isnan32 (v : U32) : Bool := v.extractLsb' 23 8 = 0xFF#8 ∧ v.extractLsb' 0 23 ≠ 0#23

/-- The set bits of a mask among the first `n`, ascending (spec/30_encoding.md R92, R93). -/
def selected (n mask : Nat) : List Nat := (List.range n).filter (fun i => mask.testBit i)

/-- `popcount(mask)`, the number of 1 bits (spec/00_scope.md R11), of a mask below `2^n`. -/
def popcount (n mask : Nat) : Nat := (List.range n).countP (fun i => mask.testBit i)

/-- The pattern sent for field `i`: its value where it is present, `FB_NAN` where it is absent
(spec/42_linkframe_encode.md R176, R177). A field past the end of either list has no value, so it is absent (log
entry 13). -/
def fieldPattern (nan : U32) (vals : List U32) (present : List Bool) (i : Nat) : U32 :=
  match present[i]?, vals[i]? with
  | some true, some v => v
  | _, _ => nan

/-- The bytes of the status codes (spec/30_encoding.md R111). -/
def statusByte : StatusCode → Byte
  | .ok => 0x00
  | .error => 0x01
  | .unsupported => 0x02
  | .busy => 0x03

/-- The place of a command name in the spec's list; it is no identifier (spec/91_not_in_source.md N5). -/
def commandIndex : CommandName → Byte
  | .ping => 0 | .setRate => 1 | .setFields => 2 | .sleep => 3 | .mainOnline => 4 | .wifiConnect => 5
  | .status => 6 | .version => 7 | .reboot => 8 | .debug => 9 | .poll => 10 | .snapshot => 11

/-- `CMD_ID`: an open injective map from the twelve names to bytes (spec/30_encoding.md R110, D18; log entry 12). -/
def commandId (c : CommandName) : Byte := Config.commandPerm (commandIndex c)

/-- `TYPE_TELEMETRY`, `TYPE_COMMAND`, `TYPE_RESPONSE`, `TYPE_EVENT`: four open distinct bytes
(spec/30_encoding.md R85, D17; log entry 12). No rule reads them. -/
def frameTypeByte : FrameType → Byte
  | .telemetry => Config.typePerm 0
  | .command => Config.typePerm 1
  | .response => Config.typePerm 2
  | .event => Config.typePerm 3

/-- The command names as the spec spells them, in its order (spec/30_encoding.md R110). -/
def commandTable : List (String × CommandName) :=
  [("ping", .ping), ("set_rate", .setRate), ("set_fields", .setFields), ("sleep", .sleep),
   ("main_online", .mainOnline), ("wifi_connect", .wifiConnect), ("status", .status), ("version", .version),
   ("reboot", .reboot), ("debug", .debug), ("poll", .poll), ("snapshot", .snapshot)]

/-- The lookup of a command name; an unrecognized name yields none (R110: "'no such command' without raising"). -/
def lookupCommand (name : String) : Option CommandName :=
  (commandTable.find? (fun row => row.1 == name)).map (·.2)

end Sys2Proof.Machine
end

