-- ==== Sys2Proof/Machine/Formats.lean ====
section
/-! DEFINITION. The wire formats (spec/30_encoding.md sections 2 to 4): the LinkFrame, the Modbus request and response ADU,
the field block. -/

namespace Sys2Proof.Machine

/-- The bytes of a LinkFrame that the CRC-8 covers: VERSION, TYPE, SEQ, LENGTH, PAYLOAD (R84). -/
def linkFrameBody (type seq : Byte) (payload : List Byte) : List Byte :=
  Config.version :: type :: seq :: BitVec.ofNat 8 payload.length :: payload

/-- A LinkFrame on the wire (R83). -/
def linkFrameBytes (type seq : Byte) (payload : List Byte) : List Byte :=
  Config.startByte :: (linkFrameBody type seq payload
    ++ [crc8 (linkFrameBody type seq payload), Config.endByte])

/-- Bytes 0 to 5 of a request ADU: address and count go high byte first (R89, spec/20_memory.md R54). -/
def requestBody (slave : Byte) (addr count : U16) : List Byte :=
  [slave, Config.mbFunc] ++ be16 addr ++ be16 count

/-- A request ADU: the CRC-16 goes low byte first (R89, spec/20_memory.md R55). -/
def requestAdu (slave : Byte) (addr count : U16) : List Byte :=
  requestBody slave addr count ++ le16 (crc16 (requestBody slave addr count))

/-- A response ADU without its CRC: slave, function, byte count, the words high byte first (R90, spec/20_memory.md
R56). -/
def responseBody (slave : Byte) (words : List U16) : List Byte :=
  slave :: Config.mbFunc :: BitVec.ofNat 8 (2 * words.length) :: words.flatMap be16

/-- A response ADU that the block accepts (R90). -/
def responseAdu (slave : Byte) (words : List U16) : List Byte :=
  responseBody slave words ++ le16 (crc16 (responseBody slave words))

/-- The field block of a mask: `le32` of each selected field's pattern, in ascending bit order (R92). -/
def packBlock (n : Nat) (nan : U32) (mask : Nat) (vals : List U32) (present : List Bool) : List Byte :=
  (selected n mask).flatMap (fun i => le32 (fieldPattern nan vals present i))

/-- The pattern at block offset `4*j` (R92, spec/42_linkframe_encode.md R180). -/
def blockPattern (bytes : List Byte) (j : Nat) : U32 :=
  word32 (byteAt bytes (4 * j)) (byteAt bytes (4 * j + 1)) (byteAt bytes (4 * j + 2)) (byteAt bytes (4 * j + 3))

end Sys2Proof.Machine
end

