-- ==== Sys2Proof/Machine/Ops.lean ====
section
/-! DEFINITION. The named operations that the meanings share: ending an operation ok or in a failure, sending, the codec's
transaction, the parser's frame reset and its transition table. -/

namespace Sys2Proof.Machine

/-! ## Ending an operation -/

/-- An operation ends ok with its result (spec/00_scope.md R7). -/
def State.succeed (v : Value) (s : State) : State := { s with reply := { status := .ok, value := v } }

/-- `fail(KIND)` (spec/00_scope.md R12): the block's counterpart of taking an exception. The failure's code goes to the
result-status output with the information recorded (spec/60_exceptions.md R221); nothing is saved, there is no handler
(R226) and nothing to return from (R227). What a failure writes besides is its operation's own, done before. -/
def State.fail (kind : ErrKind) (info : Value) (s : State) : State :=
  { s with reply := { status := .failed kind, value := info } }

/-- The next operation is taken from these bytes of the port. -/
def State.withPort (bytes : List Byte) (s : State) : State := { s with port := bytes }

/-- `send(link_tx, bytes)` (spec/00_scope.md R12). -/
def State.sendLink (bytes : List Byte) (s : State) : State := { s with linkTx := s.linkTx ++ bytes }

/-- `send(mb_tx, bytes)` (spec/00_scope.md R12). -/
def State.sendModbus (bytes : List Byte) (s : State) : State := { s with mbTx := s.mbTx ++ bytes }

/-- The CRC unit takes a new state. -/
def State.withCrc (u : CrcUnit) (s : State) : State := { s with crc := u }

/-- The Modbus codec takes a new state. -/
def State.withMb (m : ModbusPort) (s : State) : State := { s with mb := m }

/-- The LinkParser takes a new state and hands out the frames it emitted (spec/43_linkparser.md R206). -/
def State.withLp (p : LinkParser) (frames : List Frame) (s : State) : State :=
  { s with lp := p, emits := s.emits ++ frames }

/-! ## The Modbus codec -/

/-- A new transaction (spec/41_modbus.md R140): slave and count latched, the expected length set, the buffer emptied. -/
def ModbusPort.start (slave : Byte) (count : U16) (m : ModbusPort) : ModbusPort :=
  { state := .recv, slave := slave, count := count, need := 3 + 2 * count.toNat + 2, cnt := 0, buf := [],
    draws := m.draws + 1 }

/-- One response byte accumulated, whatever its value (R145). -/
def ModbusPort.push (b : Byte) (m : ModbusPort) : ModbusPort :=
  { m with buf := m.buf ++ [b], cnt := m.cnt + 1 }

/-- The transaction ends (R147, R150): `mb_state` becomes IDLE and every other `mb_*` register holds any value of its
range from here (spec/93_implementation_defined.md U5): free values (log entry 8). -/
def ModbusPort.finish (m : ModbusPort) : ModbusPort :=
  let need := 5 + Config.staleNeed m.draws % 131071
  let buf := (Config.staleResponse m.draws).take need
  { state := .idle, slave := Config.staleSlave m.draws, count := Config.staleCount m.draws, need := need,
    cnt := buf.length, buf := buf, draws := m.draws + 1 }

/-- `MB.REQ` once its precondition holds (R140). Whether the write fails is the environment's draw; where it fails, the
transaction does not start, no `mb_*` register is written and any number of the eight bytes has reached the wire
(R142, U2; log entries 5 and 6). -/
def sendRequest (slave : Byte) (addr count : U16) (s : State) : State :=
  if Config.writeFails s.mb.draws then
    ((s.sendModbus ((requestAdu slave addr count).take (Config.writtenBytes s.mb.draws))).withMb
      { s.mb with draws := s.mb.draws + 1 }).fail .errWrite .none
  else
    ((s.sendModbus (requestAdu slave addr count)).withMb (s.mb.start slave count)).succeed .none

/-- The precondition of `MB.REQ` (R141). -/
def guardRequest (count : U16) (run : State → State) (s : State) : Outcome :=
  if s.mb.state = .recv then .refused .transactionInFlight
  else if s.par.mbCountMax < count.toNat then .refused .countAboveMax
  else .next (run s)

/-- `MB.RXB b` once it is enabled (R145). -/
def receiveByte (b : Byte) (s : State) : State := (s.withMb (s.mb.push b)).succeed .none

/-- `MB.RXB b` (R145), refused unless enabled (R146, spec/92_eei_decisions.md D34). -/
def offerByte (b : Byte) (s : State) : Outcome :=
  if s.mb.state = .idle ∨ s.mb.cnt = s.mb.need then .refused .receiveNotEnabled else .next (receiveByte b s)

/-- Bytes arriving on `mb_rx`: each is taken while `MB.RXB` is enabled; the others stay in the stream, where they are
the first bytes of the next transaction's response (R146, R156, spec/93_implementation_defined.md U20). The second
part of the answer is those bytes. -/
def receiveBytes : List Byte → State → State × List Byte
  | [], s => (s, [])
  | b :: bytes, s =>
    if s.mb.state = .idle ∨ s.mb.cnt = s.mb.need then (s, b :: bytes)
    else receiveBytes bytes (receiveByte b s)

/-- `MB.TMO` once it is enabled (R147): the transaction is over, however many bytes had arrived, and their number is
recorded with the failure (spec/60_exceptions.md R221; log entry 17). -/
def expire (s : State) : State := (s.withMb s.mb.finish).fail .errTimeout (.received s.mb.cnt)

/-- The three validations of a response, in their order, the first that fails giving the kind (R150, R151). -/
def validate (m : ModbusPort) : Option ErrKind :=
  let k := crc16 (m.buf.take (m.need - 2))
  if byteAt m.buf (m.need - 2) ≠ lo k ∨ byteAt m.buf (m.need - 1) ≠ hi k then some .errCrc16
  else if byteAt m.buf 0 ≠ m.slave ∨ byteAt m.buf 1 ≠ Config.mbFunc then some .errAddrFunc
  else if (byteAt m.buf 2).toNat ≠ 2 * m.count.toNat then some .errLength
  else none

/-- The words of a response, big-endian, in request order (R150). -/
def responseWords (m : ModbusPort) : List U16 :=
  (List.range m.count.toNat).map (fun i => word16 (byteAt m.buf (3 + 2 * i)) (byteAt m.buf (4 + 2 * i)))

/-- `MB.CHK` once it is enabled (R150): the transaction ends whatever the verdict, and words are delivered only where
every validation passes. -/
def verdict (s : State) : State :=
  match validate s.mb with
  | some kind => (s.withMb s.mb.finish).fail kind .none
  | none => (s.withMb s.mb.finish).succeed (.words (responseWords s.mb))

/-! ## The field block -/

/-- The precondition of `FB.PACK` and `FB.UNPACK` (spec/42_linkframe_encode.md R176, R180). -/
def guardMask (mask : Nat) (run : State → State) (s : State) : Outcome :=
  if 2 ^ s.par.nFields ≤ mask then .refused .maskTooWide else .next (run s)

/-- `FB.PACK` once its precondition holds: bytes returned, nothing sent (R176, R179). -/
def returnBlock (mask : Nat) (vals : List U32) (present : List Bool) (s : State) : State :=
  s.succeed (.bytes (packBlock s.par.nFields s.par.fbNan mask vals present))

/-- The fields of a block of the right length (R180): the `j`-th set bit's pattern stands at offset `4*j`, and every NaN
pattern means absent (D19). -/
def unpackBlock (n mask : Nat) (bytes : List Byte) : List FieldValue :=
  (selected n mask).zipIdx.map (fun ij =>
    { index := ij.1, value := blockPattern bytes ij.2, absent := isnan32 (blockPattern bytes ij.2) })

/-! ## The LinkParser -/

/-- An increment of a counter of `w` bits (spec/10_state.md R34). -/
def bump (w n : Nat) : Nat := (n + 1) % 2 ^ w

/-- Frame reset (spec/43_linkparser.md R191): the stage and the index; the counters are kept (D14). The header registers
and the buffer hold unspecified contents from here (R31, R191, U6): free values (log entry 9). -/
def LinkParser.frameReset (p : LinkParser) : LinkParser :=
  { p with
    stage := .wait, idx := 0, ver := Config.staleVer p.draws, type := Config.staleType p.draws,
    seq := Config.staleSeq p.draws, len := Config.staleLen p.draws, buf := Config.stalePayload p.draws,
    draws := p.draws + 1 }

/-- `lp_buf[0 .. lp_len-1]` (spec/43_linkparser.md R190). -/
def LinkParser.collected (p : LinkParser) : List Byte := p.buf.toList.take p.len.toNat

/-- The CRC-8 of the frame being received (R199). -/
def LinkParser.expectedCrc (p : LinkParser) : Byte :=
  crc8 ([p.ver, p.type, p.seq, p.len] ++ p.collected)

/-- Stage `WAIT` (R193). -/
def LinkParser.feedWait (b : Byte) (p : LinkParser) : LinkParser :=
  if b = Config.startByte then { p with stage := .hdr0 } else p

/-- Stage `HDR0` (R194): the version is checked when its byte arrives (D12). -/
def LinkParser.feedVersion (b : Byte) (p : LinkParser) : LinkParser :=
  if b = Config.version then { p with ver := b, stage := .hdr1 } else p.frameReset

/-- Stage `HDR1` (R195). -/
def LinkParser.feedType (b : Byte) (p : LinkParser) : LinkParser := { p with type := b, stage := .hdr2 }

/-- Stage `HDR2` (R196). -/
def LinkParser.feedSeq (b : Byte) (p : LinkParser) : LinkParser := { p with seq := b, stage := .hdr3 }

/-- Stage `HDR3` (R197), with counters of `w` bits. -/
def LinkParser.feedLength (w : Nat) (b : Byte) (p : LinkParser) : LinkParser :=
  if Config.maxPayload < b.toNat then { p with ctrLength := bump w p.ctrLength }.frameReset
  else { p with len := b, idx := 0, stage := if b = 0 then .checksum else .payload }

/-- Stage `PAYLOAD` (R198). -/
def LinkParser.feedPayload (b : Byte) (p : LinkParser) : LinkParser :=
  { p with
    buf := p.buf.setIfInBounds p.idx b, idx := p.idx + 1,
    stage := if p.idx + 1 = p.len.toNat then .checksum else .payload }

/-- Stage `CHECKSUM` (R199), with counters of `w` bits. -/
def LinkParser.feedChecksum (w : Nat) (b : Byte) (p : LinkParser) : LinkParser :=
  if b = p.expectedCrc then { p with stage := .endMark } else { p with ctrCrc := bump w p.ctrCrc }.frameReset

/-- Stage `END` (R200), with counters of `w` bits. -/
def LinkParser.feedEnd (w : Nat) (b : Byte) (p : LinkParser) : LinkParser :=
  if b = Config.endByte then p.frameReset else { p with ctrFraming := bump w p.ctrFraming }.frameReset

/-- The frame that the parser emits on the END byte: a copy of what it collected (R200, R206, D25). -/
def LinkParser.frame (p : LinkParser) : Frame :=
  { version := p.ver, type := p.type, seq := p.seq, payload := p.collected }

/-- What a byte makes the parser emit: a frame on the END byte in stage `END`, else nothing (R190). -/
def LinkParser.emitted (p : LinkParser) (b : Byte) : List Frame :=
  if p.stage = .endMark ∧ b = Config.endByte then [p.frame] else []

/-- The parser after one byte: one row of the transition table (R190), with counters of `w` bits. -/
def LinkParser.feed (w : Nat) (p : LinkParser) (b : Byte) : LinkParser :=
  match p.stage with
  | .wait => p.feedWait b
  | .hdr0 => p.feedVersion b
  | .hdr1 => p.feedType b
  | .hdr2 => p.feedSeq b
  | .hdr3 => p.feedLength w b
  | .payload => p.feedPayload b
  | .checksum => p.feedChecksum w b
  | .endMark => p.feedEnd w b

/-- The parser after a batch of bytes (R207). -/
def LinkParser.feedAll (w : Nat) (p : LinkParser) : List Byte → LinkParser
  | [] => p
  | b :: bytes => (p.feed w b).feedAll w bytes

/-- The frames that a batch of bytes makes the parser emit, in order (R207). -/
def LinkParser.emittedAll (w : Nat) (p : LinkParser) : List Byte → List Frame
  | [] => []
  | b :: bytes => p.emitted b ++ (p.feed w b).emittedAll w bytes

/-- The parser in its reset state (R210): a frame reset, and the three counters 0. -/
def LinkParser.clear (p : LinkParser) : LinkParser :=
  { p.frameReset with ctrFraming := 0, ctrLength := 0, ctrCrc := 0 }

/-- Feeding a batch and delivering the frames it completes (R207); the result is those frames. -/
def feedLink (bytes : List Byte) (s : State) : State :=
  (s.withLp (s.lp.feedAll s.par.ctrW bytes) (s.lp.emittedAll s.par.ctrW bytes)).succeed
    (.frames (s.lp.emittedAll s.par.ctrW bytes))

end Sys2Proof.Machine
end

