-- ==== Sys2Proof/Machine/Crc.lean ====
section
/-! DEFINITION. The CRC unit's six operations (spec/40_crc.md sections 3 and 4). -/

namespace Sys2Proof.Machine

/-- `CRC8.CLR` (R128). -/
def execCrc8Clr (s : State) : Outcome := .next ((s.withCrc { s.crc with c8 := Config.crc8Init }).succeed .none)

/-- `CRC8.UPD b` (R129). -/
def execCrc8Upd (b : Byte) (s : State) : Outcome :=
  .next ((s.withCrc { s.crc with c8 := crc8Step s.crc.c8 b }).succeed .none)

/-- `CRC8.RD` (R130). -/
def execCrc8Rd (s : State) : Outcome := .next (s.succeed (.byte s.crc.c8))

/-- `CRC16.CLR` (R131). -/
def execCrc16Clr (s : State) : Outcome := .next ((s.withCrc { s.crc with c16 := Config.crc16Init }).succeed .none)

/-- `CRC16.UPD b` (R132). -/
def execCrc16Upd (b : Byte) (s : State) : Outcome :=
  .next ((s.withCrc { s.crc with c16 := crc16Step s.crc.c16 b }).succeed .none)

/-- `CRC16.RD` (R133): a 16-bit value, not byte-swapped. -/
def execCrc16Rd (s : State) : Outcome := .next (s.succeed (.word s.crc.c16))

end Sys2Proof.Machine
end

