-- ==== Sys2Proof/Machine/LinkFrame.lean ====
section
/-! DEFINITION. The LinkFrame encoder and the field block (spec/42_linkframe_encode.md). -/

namespace Sys2Proof.Machine

/-- `LF.ENC type, seq, payload` (R170): the length check comes first and nothing is sent where it fails (R171). -/
def execLfEnc (type seq : Byte) (payload : List Byte) (s : State) : Outcome :=
  .next
    (if Config.maxPayload < payload.length then s.fail .errPayloadLen .none
     else (s.sendLink (linkFrameBytes type seq payload)).succeed (.bytes (linkFrameBytes type seq payload)))

/-- `FB.PACK mask, vals, present` (R176). -/
def execFbPack (mask : Nat) (vals : List U32) (present : List Bool) (s : State) : Outcome :=
  guardMask mask (returnBlock mask vals present) s

/-- `FB.UNPACK mask, bytes` (R180): the mask is tested before the length (spec/60_exceptions.md R225). -/
def execFbUnpack (mask : Nat) (bytes : List Byte) (s : State) : Outcome :=
  guardMask mask
    (fun s =>
      if bytes.length ≠ 4 * popcount s.par.nFields mask then s.fail .errFbLen .none
      else s.succeed (.fields (unpackBlock s.par.nFields mask bytes)))
    s

end Sys2Proof.Machine
end

