-- ==== Sys2Proof/Machine/Modbus.lean ====
section
/-! DEFINITION. The Modbus codec's operations (spec/41_modbus.md): the four steps, and the whole call `MB.READ`. -/

namespace Sys2Proof.Machine

/-- `MB.REQ slave, addr, count` (R140, R141, R142); no operand is checked but the bound on `count` (R143). -/
def execMbReq (slave : Byte) (addr count : U16) (s : State) : Outcome :=
  guardRequest count (sendRequest slave addr count) s

/-- `MB.RXB b` (R145, R146). -/
def execMbRxb (b : Byte) (s : State) : Outcome := offerByte b s

/-- `MB.TMO` (R147). -/
def execMbTmo (s : State) : Outcome :=
  if s.mb.state = .idle ∨ s.mb.cnt = s.mb.need then .refused .timeoutNotEnabled else .next (expire s)

/-- `MB.CHK` (R150). -/
def execMbChk (s : State) : Outcome :=
  if s.mb.state = .idle ∨ s.mb.cnt < s.mb.need then .refused .checkNotEnabled else .next (verdict s)

/-- `MB.READ` once the precondition of its `MB.REQ` holds (R153, R106): the request; unless its write failed, the bytes
that arrive, no more than the expected length; then the timeout if any is missing, else the check. What `rx` holds
beyond the expected length stays in the stream (R146). -/
def readCall (slave : Byte) (addr count : U16) (rx : List Byte) (s : State) : State :=
  let requested := sendRequest slave addr count s
  if Config.writeFails s.mb.draws then requested
  else
    let received := (receiveBytes rx requested).1
    if received.mb.cnt < received.mb.need then expire received else verdict received

/-- `MB.READ slave, addr, count` (R153), with the environment's bytes `rx` (log entry 14). -/
def execMbRead (slave : Byte) (addr count : U16) (rx : List Byte) (s : State) : Outcome :=
  guardRequest count (readCall slave addr count rx) s

end Sys2Proof.Machine
end

