-- ==== Sys2Proof/Machine/Parser.lean ====
section
/-! DEFINITION. The LinkParser's operations (spec/43_linkparser.md): the three operations and the two pseudo-operations. -/

namespace Sys2Proof.Machine

/-- `LP.FEED b` (R190): total, never refused, always ok (R203). -/
def execLpFeed (b : Byte) (s : State) : Outcome := .next (feedLink [b] s)

/-- `LP.RDC n` (R209): reading changes nothing. -/
def execLpRdc (n : Nat) (s : State) : Outcome :=
  match n with
  | 0 => .next (s.succeed (.counter s.lp.ctrFraming))
  | 1 => .next (s.succeed (.counter s.lp.ctrLength))
  | 2 => .next (s.succeed (.counter s.lp.ctrCrc))
  | _ => .refused .noSuchCounter

/-- `LP.RST` (R210). -/
def execLpRst (s : State) : Outcome := .next ((s.withLp s.lp.clear []).succeed .none)

/-- `LP.FEEDN bytes` (R207). -/
def execLpFeedn (bytes : List Byte) (s : State) : Outcome := .next (feedLink bytes s)

/-- `LF.DEC bytes` (R208): `LP.RST`, then `LP.FEEDN`; the result is the frames and the three counters. -/
def execLfDec (bytes : List Byte) (s : State) : Outcome :=
  let t := feedLink bytes (s.withLp s.lp.clear [])
  .next (t.succeed (.decoded (s.lp.clear.emittedAll s.par.ctrW bytes) t.lp.ctrFraming t.lp.ctrLength t.lp.ctrCrc))

end Sys2Proof.Machine
end

