-- ==== Sys2Proof/Machine/Wire.lean ====
section
/-! DEFINITION. The rows of the opcode table that are no operation: four wire formats and two payload vocabularies. No
operation code selects them (spec/30_encoding.md R81, R104). A wire format stands here for one unit of it crossing the
block's boundary by the operations that carry it (log entry 15), a vocabulary row for a lookup that touches no state
of the block (log entry 16). -/

namespace Sys2Proof.Machine

/-- `LINKFRAME` (R83): the frame arrives on `link_rx`, byte by byte through `LP.FEED` (spec/43_linkparser.md R190). The
length byte says at most 255. -/
def execLinkFrame (type seq : Byte) (payload : List Byte) (s : State) : Outcome :=
  if 255 < payload.length then .refused .notOnWire else .next (feedLink (linkFrameBytes type seq payload) s)

/-- `MB_REQ_ADU` (R89): the ADU goes out on `mb_tx`, which only a request does (spec/41_modbus.md R140). -/
def execMbReqAdu (slave : Byte) (addr count : U16) (s : State) : Outcome :=
  guardRequest count (sendRequest slave addr count) s

/-- `MB_RSP_ADU` (R90): the response arrives on `mb_rx`, and its bytes are taken one by one while `MB.RXB` is enabled
(spec/41_modbus.md R145); the result is the bytes that stay in the stream (R146). The byte count says at most 127
words. -/
def execMbRspAdu (slave : Byte) (words : List U16) (s : State) : Outcome :=
  if 127 < words.length then .refused .notOnWire
  else
    let received := receiveBytes (responseAdu slave words) s
    .next (received.1.succeed (.bytes received.2))

/-- `FIELD_BLOCK` (R92): the block is built, which `FB.PACK` does (spec/42_linkframe_encode.md R176). -/
def execFieldBlock (mask : Nat) (vals : List U32) (present : List Bool) (s : State) : Outcome :=
  guardMask mask (returnBlock mask vals present) s

/-- `STATUS_CODES` (R111): the byte of a status code; the block itself never reads one. -/
def execStatusCodes (code : StatusCode) (s : State) : Outcome := .next (s.succeed (.byte (statusByte code)))

/-- `COMMAND_NAMES` (R110): the identifier of a name, or 'no such command' without raising; the block itself never
reads one. -/
def execCommandNames (name : String) (s : State) : Outcome :=
  .next (s.succeed (.command ((lookupCommand name).map commandId)))

end Sys2Proof.Machine
end

