-- ==== Sys2Proof/Machine/Dispatch.lean ====
section
/-! DEFINITION. The dispatch: one arm per constructor of `Instr`, each one call of its meaning. -/

namespace Sys2Proof.Machine

def exec (i : Instr) (s : State) : Host.Outcome State Fault Refusal :=
  match i with
  | .crc8Clr => Sys2Proof.Machine.execCrc8Clr s
  | .crc8Upd b => Sys2Proof.Machine.execCrc8Upd b s
  | .crc8Rd => Sys2Proof.Machine.execCrc8Rd s
  | .crc16Clr => Sys2Proof.Machine.execCrc16Clr s
  | .crc16Upd b => Sys2Proof.Machine.execCrc16Upd b s
  | .crc16Rd => Sys2Proof.Machine.execCrc16Rd s
  | .mbReq slave addr count => Sys2Proof.Machine.execMbReq slave addr count s
  | .mbRxb b => Sys2Proof.Machine.execMbRxb b s
  | .mbTmo => Sys2Proof.Machine.execMbTmo s
  | .mbChk => Sys2Proof.Machine.execMbChk s
  | .lfEnc type seq payload => Sys2Proof.Machine.execLfEnc type seq payload s
  | .fbPack mask vals present => Sys2Proof.Machine.execFbPack mask vals present s
  | .fbUnpack mask bytes => Sys2Proof.Machine.execFbUnpack mask bytes s
  | .lpFeed b => Sys2Proof.Machine.execLpFeed b s
  | .lpRdc n => Sys2Proof.Machine.execLpRdc n s
  | .lpRst => Sys2Proof.Machine.execLpRst s
  | .mbRead slave addr count rx => Sys2Proof.Machine.execMbRead slave addr count rx s
  | .lpFeedn bytes => Sys2Proof.Machine.execLpFeedn bytes s
  | .lfDec bytes => Sys2Proof.Machine.execLfDec bytes s
  | .linkFrame type seq payload => Sys2Proof.Machine.execLinkFrame type seq payload s
  | .mbReqAdu slave addr count => Sys2Proof.Machine.execMbReqAdu slave addr count s
  | .mbRspAdu slave words => Sys2Proof.Machine.execMbRspAdu slave words s
  | .fieldBlock mask vals present => Sys2Proof.Machine.execFieldBlock mask vals present s
  | .statusCodes code => Sys2Proof.Machine.execStatusCodes code s
  | .commandNames name => Sys2Proof.Machine.execCommandNames name s

end Sys2Proof.Machine
end

