-- ==== Sys2Proof/WellFormed.lean ====
section
/-! DEFINITION. When a term of `Instr` is one that can be written down: its operands fit the fields of the operation port's
layout (log entry 2) or of the wire format it stands for. It says nothing of the preconditions of R82: those are the
meanings' own. -/

namespace Sys2Proof

open Machine (lookupCommand)

/-- A byte sequence whose length fits the port's four length bytes (log entry 2). -/
def lengthFits (bytes : List Byte) : Bool := bytes.length < 2 ^ 32

/-- A mask that fits the port's eight mask bytes (log entry 2). -/
def maskFits (mask : Nat) : Bool := mask < 2 ^ 64

/-- The two operand lists of a mapping from fields to values: one entry of each per field, at most `N_FIELDS`'s
bound of 60 (spec/00_scope.md R9). -/
def fieldListsFit (vals : List U32) (present : List Bool) : Bool :=
  vals.length = present.length ∧ vals.length ≤ Config.maxFields

/-- The check on an instruction's operands. -/
def wellFormed : Instr → Bool
  | .lfEnc _ _ payload => lengthFits payload
  | .fbPack mask vals present => maskFits mask && fieldListsFit vals present
  | .fbUnpack mask bytes => maskFits mask && lengthFits bytes
  | .lpRdc n => n < 256
  | .mbRead _ _ count rx => rx.length ≤ 5 + 2 * count.toNat
  | .linkFrame _ _ payload => payload.length ≤ Config.maxPayload
  | .mbRspAdu _ words => words.length ≤ 127
  | .fieldBlock mask vals present => maskFits mask && fieldListsFit vals present
  | .commandNames name => (lookupCommand name).isSome
  | .crc8Clr | .crc8Upd _ | .crc8Rd | .crc16Clr | .crc16Upd _ | .crc16Rd => true
  | .mbReq _ _ _ | .mbRxb _ | .mbTmo | .mbChk | .lpFeed _ | .lpRst => true
  | .lpFeedn _ | .lfDec _ | .mbReqAdu _ _ _ | .statusCodes _ => true

end Sys2Proof
end

