-- ==== Sys2Proof/Decode.lean ====
section
/-! DEFINITION. Decoding and encoding. The operation codes are the spec's (spec/30_encoding.md R81). The layout of operands
on the operation port is the model's, since the spec fixes none (R80; log entry 2): operands follow the code in the
order of R82; a byte is one byte, a 16-bit word and a 32-bit pattern go low byte first, a byte sequence is a length
of four bytes and its bytes, a mask is eight bytes, the field lists are a count byte and per field a flag byte
(1 present, 0 absent) and a pattern. Pseudo-operations have no code: they are their expansions (R106). The wire
formats have layouts of their own (R83, R89, R90, R92) and decoders of their own, which the operation port never
uses. -/

namespace Sys2Proof

open Machine

/-- Why the bytes at the operation port are not an operation. -/
inductive DecodeError where
  /-- The port holds nothing: no agent offers a step (spec/70_reset_and_hazards.md R280). -/
  | noOperation
  /-- The code is none of the sixteen (spec/30_encoding.md R104). -/
  | unknownOp (op : Byte)
  /-- The operand bytes are not all there (the model's layout, log entry 2). -/
  | truncated
  /-- A presence flag is neither 0 nor 1 (the model's layout, log entry 2). -/
  | badFlag (flag : Byte)
  deriving DecidableEq, Repr

/-- What a reader of the port answers: a value and the bytes it left. -/
abbrev Parse (α : Type) := Except DecodeError (α × List Byte)

/-- One reader after another: the second gets the first's value and the bytes it left. -/
def andThen {α β : Type} (first : Parse α) (second : α → List Byte → Parse β) : Parse β :=
  match first with
  | .ok (a, rest) => second a rest
  | .error e => .error e

/-- A natural number from `k` bytes, the least significant first. -/
def takeNat : Nat → List Byte → Parse Nat
  | 0, bytes => .ok (0, bytes)
  | _ + 1, [] => .error .truncated
  | k + 1, b :: bytes => andThen (takeNat k bytes) fun n rest => .ok (b.toNat + 256 * n, rest)

/-- The `k` low bytes of a number, the least significant first. -/
def putNat : Nat → Nat → List Byte
  | 0, _ => []
  | k + 1, n => BitVec.ofNat 8 n :: putNat k (n / 256)

/-- One byte operand. -/
def takeByte : List Byte → Parse Byte
  | [] => .error .truncated
  | b :: rest => .ok (b, rest)

/-- One 16-bit operand, low byte first. -/
def takeU16 : List Byte → Parse U16
  | l :: h :: rest => .ok (word16 h l, rest)
  | _ => .error .truncated

/-- A byte sequence operand: its length in four bytes, then its bytes. -/
def takeBytes (bytes : List Byte) : Parse (List Byte) :=
  andThen (takeNat 4 bytes) fun n rest =>
    if n ≤ rest.length then .ok (rest.take n, rest.drop n) else .error .truncated

/-- A byte sequence operand as bytes. -/
def putBytes (bytes : List Byte) : List Byte := putNat 4 bytes.length ++ bytes

/-- `n` entries of the field lists, each a flag byte and a pattern. -/
def takeFields : Nat → List Byte → Parse (List U32 × List Bool)
  | 0, bytes => .ok (([], []), bytes)
  | n + 1, flag :: b0 :: b1 :: b2 :: b3 :: bytes =>
    if flag = 0 ∨ flag = 1 then
      andThen (takeFields n bytes) fun lists rest =>
        .ok ((word32 b0 b1 b2 b3 :: lists.1, (flag == 1) :: lists.2), rest)
    else .error (.badFlag flag)
  | _ + 1, _ => .error .truncated

/-- The entries of the field lists as bytes. -/
def putFields : List U32 → List Bool → List Byte
  | v :: vals, p :: present => (if p then 1 else 0) :: (le32 v ++ putFields vals present)
  | _, _ => []

/-- The operation of a code, read with its operands from the bytes after it (spec/30_encoding.md R81, R82). -/
def decodeOperands (op : Byte) (bytes : List Byte) : Parse Instr :=
  match op.toNat with
  | 0x10 => .ok (.crc8Clr, bytes)
  | 0x11 =>
    andThen (takeByte bytes) fun b rest =>
    .ok (.crc8Upd b, rest)
  | 0x12 => .ok (.crc8Rd, bytes)
  | 0x20 => .ok (.crc16Clr, bytes)
  | 0x21 =>
    andThen (takeByte bytes) fun b rest =>
    .ok (.crc16Upd b, rest)
  | 0x22 => .ok (.crc16Rd, bytes)
  | 0x30 =>
    andThen (takeByte bytes) fun slave rest =>
    andThen (takeU16 rest) fun addr rest =>
    andThen (takeU16 rest) fun count rest =>
    .ok (.mbReq slave addr count, rest)
  | 0x31 =>
    andThen (takeByte bytes) fun b rest =>
    .ok (.mbRxb b, rest)
  | 0x32 => .ok (.mbTmo, bytes)
  | 0x33 => .ok (.mbChk, bytes)
  | 0x40 =>
    andThen (takeByte bytes) fun type rest =>
    andThen (takeByte rest) fun seq rest =>
    andThen (takeBytes rest) fun payload rest =>
    .ok (.lfEnc type seq payload, rest)
  | 0x41 =>
    andThen (takeNat 8 bytes) fun mask rest =>
    andThen (takeByte rest) fun n rest =>
    andThen (takeFields n.toNat rest) fun lists rest =>
    .ok (.fbPack mask lists.1 lists.2, rest)
  | 0x42 =>
    andThen (takeNat 8 bytes) fun mask rest =>
    andThen (takeBytes rest) fun block rest =>
    .ok (.fbUnpack mask block, rest)
  | 0x50 =>
    andThen (takeByte bytes) fun b rest =>
    .ok (.lpFeed b, rest)
  | 0x51 =>
    andThen (takeByte bytes) fun n rest =>
    .ok (.lpRdc n.toNat, rest)
  | 0x52 => .ok (.lpRst, bytes)
  | _ => .error (.unknownOp op)

/-- The operation at the front of the port's bytes, and the bytes behind it. Total; every rejection has a name. -/
def decode : List Byte → Parse Instr
  | [] => .error .noOperation
  | op :: bytes => decodeOperands op bytes

/-- The code of each operation (spec/30_encoding.md R81); the other rows of the table have none. -/
def opCode : Instr → Option Byte
  | .crc8Clr => some 0x10
  | .crc8Upd _ => some 0x11
  | .crc8Rd => some 0x12
  | .crc16Clr => some 0x20
  | .crc16Upd _ => some 0x21
  | .crc16Rd => some 0x22
  | .mbReq _ _ _ => some 0x30
  | .mbRxb _ => some 0x31
  | .mbTmo => some 0x32
  | .mbChk => some 0x33
  | .lfEnc _ _ _ => some 0x40
  | .fbPack _ _ _ => some 0x41
  | .fbUnpack _ _ => some 0x42
  | .lpFeed _ => some 0x50
  | .lpRdc _ => some 0x51
  | .lpRst => some 0x52
  | .mbRead _ _ _ _ | .lpFeedn _ | .lfDec _ => none
  | .linkFrame _ _ _ | .mbReqAdu _ _ _ | .mbRspAdu _ _ | .fieldBlock _ _ _ => none
  | .statusCodes _ | .commandNames _ => none

/-- The operand bytes of an operation, in the order of R82; the other rows of the table have none. -/
def operandBytes : Instr → List Byte
  | .crc8Upd b | .crc16Upd b | .mbRxb b | .lpFeed b => [b]
  | .mbReq slave addr count => slave :: (le16 addr ++ le16 count)
  | .lfEnc type seq payload => type :: seq :: putBytes payload
  | .fbPack mask vals present => putNat 8 mask ++ BitVec.ofNat 8 vals.length :: putFields vals present
  | .fbUnpack mask bytes => putNat 8 mask ++ putBytes bytes
  | .lpRdc n => [BitVec.ofNat 8 n]
  | .crc8Clr | .crc8Rd | .crc16Clr | .crc16Rd | .mbTmo | .mbChk | .lpRst => []
  | .mbRead _ _ _ _ | .lpFeedn _ | .lfDec _ => []
  | .linkFrame _ _ _ | .mbReqAdu _ _ _ | .mbRspAdu _ _ | .fieldBlock _ _ _ => []
  | .statusCodes _ | .commandNames _ => []

/-- An operation as the port's bytes: its code, then its operands. -/
def encodeOperation (i : Instr) : List Byte := (opCode i).toList ++ operandBytes i

/-- The operations a row stands for (spec/30_encoding.md R106): a pseudo-operation is its expansion, with the
environment's steps of `MB.READ` given by its operand `rx`; an operation is itself; a format or a name is none. -/
def expand : Instr → List Instr
  | .mbRead slave addr count rx =>
    .mbReq slave addr count :: ((rx.take (5 + 2 * count.toNat)).map .mbRxb
      ++ [if rx.length < 5 + 2 * count.toNat then .mbTmo else .mbChk])
  | .lpFeedn bytes => bytes.map .lpFeed
  | .lfDec bytes => .lpRst :: bytes.map .lpFeed
  | i => if (opCode i).isSome then [i] else []

/-- The bytes of an instruction: an operation or an expansion as it stands at the port, a wire format as it stands on
its stream, a vocabulary row as the payload byte it names (none for an unrecognized command name). A field block
depends on parameters: `n` is `N_FIELDS`, `nan` is `FB_NAN`. -/
def encode (n : Nat) (nan : U32) : Instr → List Byte
  | .linkFrame type seq payload => linkFrameBytes type seq payload
  | .mbReqAdu slave addr count => requestAdu slave addr count
  | .mbRspAdu slave words => responseAdu slave words
  | .fieldBlock mask vals present => packBlock n nan mask vals present
  | .statusCodes code => [statusByte code]
  | .commandNames name => ((lookupCommand name).map commandId).toList
  | i => (expand i).flatMap encodeOperation

/-- Why bytes are not one unit of a wire format. -/
inductive WireError where
  /-- Fewer bytes than the format's length. -/
  | truncated
  /-- The first byte is not START (spec/30_encoding.md R83). -/
  | start
  /-- A foreign VERSION (R99). -/
  | version
  /-- LENGTH above 240, or a byte count that is no number of words (R90, R101). -/
  | length
  /-- A function code other than 0x03 (R89, R90). -/
  | function
  /-- The checksum does not cover the bytes before it (R84, R89, R90). -/
  | checksum
  /-- The last byte is not END (R83). -/
  | endMark
  deriving DecidableEq, Repr

/-- What a reader of a stream answers. -/
abbrev WireParse := Except WireError (Instr × List Byte)

/-- A LinkFrame at the front of a byte sequence (R83), its fields checked in the order in which they stand. It reads
the format only; how the block itself receives frames is `LP.FEED`. -/
def decodeLinkFrame : List Byte → WireParse
  | st :: ver :: type :: seq :: len :: bytes =>
    if st ≠ Config.startByte then .error .start
    else if ver ≠ Config.version then .error .version
    else if len.toNat > Config.maxPayload then .error .length
    else
      match bytes.drop len.toNat with
      | crc :: fin :: rest =>
        if crc ≠ crc8 (ver :: type :: seq :: len :: bytes.take len.toNat) then .error .checksum
        else if fin ≠ Config.endByte then .error .endMark
        else .ok (.linkFrame type seq (bytes.take len.toNat), rest)
      | _ => .error .truncated
  | _ => .error .truncated

/-- A request ADU at the front of a byte sequence (R89). -/
def decodeRequestAdu : List Byte → WireParse
  | slave :: func :: ah :: al :: ch :: cl :: kl :: kh :: rest =>
    if func ≠ Config.mbFunc then .error .function
    else if word16 kh kl ≠ crc16 [slave, func, ah, al, ch, cl] then .error .checksum
    else .ok (.mbReqAdu slave (word16 ah al) (word16 ch cl), rest)
  | _ => .error .truncated

/-- The words of a payload region, high byte first (R90, R91). -/
def wordsOf : List Byte → List U16
  | h :: l :: rest => word16 h l :: wordsOf rest
  | _ => []

/-- A response ADU at the front of a byte sequence (R90), its length taken from its own byte count. The block takes
the length from the request instead (R97): this reads the format only. -/
def decodeResponseAdu : List Byte → WireParse
  | slave :: func :: n :: bytes =>
    if func ≠ Config.mbFunc then .error .function
    else if n.toNat % 2 = 1 then .error .length
    else
      match bytes.drop n.toNat with
      | kl :: kh :: rest =>
        if word16 kh kl ≠ crc16 (slave :: func :: n :: bytes.take n.toNat) then .error .checksum
        else .ok (.mbRspAdu slave (wordsOf (bytes.take n.toNat)), rest)
      | _ => .error .truncated
  | _ => .error .truncated

/-- A field block read with its mask (R92): every selected field present, every other absent with pattern 0. None if
the length is not that of the mask. The mask is not on the wire (R95). -/
def decodeFieldBlock (n mask : Nat) (bytes : List Byte) : Option Instr :=
  if bytes.length ≠ 4 * popcount n mask then none
  else
    let pattern (i : Nat) : U32 :=
      if mask.testBit i then blockPattern bytes (popcount i mask) else 0
    some (.fieldBlock mask ((List.range n).map pattern) ((List.range n).map (fun i => mask.testBit i)))

/-- The status code of a payload byte (R111). -/
def decodeStatus (b : Byte) : Option Instr :=
  ([.ok, .error, .unsupported, .busy].find? (fun c => statusByte c == b)).map .statusCodes

/-- The command name of a payload byte (R110). -/
def decodeCommand (b : Byte) : Option Instr :=
  (commandTable.find? (fun row => commandId row.2 == b)).map (fun row => .commandNames row.1)

/-- The bytes of a table word: `nbits` bits of `w` from bit 0 up, then zeros for the operand bytes the table gives no
bits. -/
def tableBytes (nbits w : Nat) : List Byte := putNat ((nbits + 7) / 8) w ++ List.replicate 64 0

/-- What the decoder reads from a table word. -/
def decodeTableWord (nbits w : Nat) : Option Instr :=
  match decode (tableBytes nbits w) with
  | .ok (i, _) => some i
  | .error _ => none

/-- The bytes of a table word that its instruction takes; all of them where it is no operation. -/
def tableOperation (nbits w : Nat) : List Byte :=
  match decode (tableBytes nbits w) with
  | .ok (_, rest) => (tableBytes nbits w).take ((tableBytes nbits w).length - rest.length)
  | .error _ => tableBytes nbits w

end Sys2Proof
end

