-- ==== Sys2Proof/Machine/Fetch.lean ====
section
/-! DEFINITION. Taking the next operation from the host operation port. -/

namespace Sys2Proof.Machine

/-- A run is quiescent where no agent has a further step to offer; then no transaction is in flight
(spec/70_reset_and_hazards.md R280). The parser may be in any stage (spec/43_linkparser.md R205). -/
abbrev State.Quiescent (s : State) : Prop := s.port = [] ∧ s.mb.state = .idle

/-- A rejected fetch as a refusal (spec/30_encoding.md R104). At an empty port the run is over if no transaction is in
flight; otherwise it is unfinished (spec/70_reset_and_hazards.md R280). -/
def fetchRefusal (s : State) : DecodeError → Refusal
  | .noOperation => if s.mb.state = .idle then .noOperation else .unfinishedRun
  | .unknownOp op => .unknownOp op
  | .truncated => .truncatedOperation
  | .badFlag flag => .badFlag flag

end Sys2Proof.Machine
end

