-- ==== Sys2Proof/Machine/Step.lean ====
section
/-! DEFINITION. One step: the operation at the front of the port is taken and executed. The block has no program counter and
fetches nothing else (spec/10_state.md R21); a program is the list of steps in the order the agents take them
(spec/30_encoding.md R105; log entries 1 and 3). -/

namespace Sys2Proof.Machine

/-- One step of the block. -/
def step (s : State) : Host.Outcome State Fault Refusal :=
  match decode s.port with
  | .ok (i, rest) => exec i (s.withPort rest)
  | .error e => .refused (fetchRefusal s e)

/-- The state with a table word's operation offered at the front of the port, so that the next step runs it (log
entry 3). -/
def State.withFetchWord (s : State) (nbits w : Nat) : State := s.withPort (tableOperation nbits w ++ s.port)

end Sys2Proof.Machine
end

