-- ==== Sys2Proof/Safety.lean ====
section
/-! DEFINITION. What counts as a sound state and a completed run: the invariants the spec states of the block's registers
(spec/10_state.md R27 to R34, spec/43_linkparser.md R213), and a list of operations taken one after another
(spec/30_encoding.md R105). -/

namespace Sys2Proof.Machine

/-- The parameters are in the ranges of spec/00_scope.md R9. -/
abbrev ParamsSound (p : Params) : Prop :=
  0 < p.ctrW ∧ p.nFields ≤ Config.maxFields ∧ p.mbCountMax ≤ 65535 ∧ isnan32 p.fbNan = true

/-- The Modbus registers are in the ranges of spec/10_state.md R27 to R29; in flight, the expected length is that of the
latched count. -/
abbrev ModbusSound (m : ModbusPort) : Prop :=
  m.cnt = m.buf.length ∧ m.cnt ≤ m.need ∧ 5 ≤ m.need ∧ m.need ≤ 131075
    ∧ (m.state = .recv → m.need = 3 + 2 * m.count.toNat + 2)

/-- The invariants of the LinkParser (spec/43_linkparser.md R213, spec/10_state.md R31, R34), with counters of `w`
bits. -/
abbrev ParserSound (w : Nat) (p : LinkParser) : Prop :=
  p.idx ≤ 240
    ∧ (p.stage = .payload → p.idx < p.len.toNat ∧ p.len.toNat ≤ 240)
    ∧ (p.stage = .checksum ∨ p.stage = .endMark → p.idx = p.len.toNat ∧ p.len.toNat ≤ 240)
    ∧ (p.stage ≠ .wait ∧ p.stage ≠ .hdr0 → p.ver = Config.version)
    ∧ (p.stage ≠ .payload ∧ p.stage ≠ .checksum ∧ p.stage ≠ .endMark → p.idx = 0)
    ∧ p.ctrFraming < 2 ^ w ∧ p.ctrLength < 2 ^ w ∧ p.ctrCrc < 2 ^ w

/-- The invariant of the block. -/
abbrev Sound (s : State) : Prop :=
  ParamsSound s.par ∧ ModbusSound s.mb ∧ ParserSound s.par.ctrW s.lp

/-- A list of instructions taken in order; the run stops at the first that is refused. -/
def execAll : List Instr → State → Outcome
  | [], s => .next s
  | i :: is, s =>
    match exec i s with
    | .next t => execAll is t
    | .fault r => .fault r
    | .refused r => .refused r

/-- One data bit fed against bit 7 of the CRC-8 register: the other customary formulation, which spec/40_crc.md R125
mentions. -/
def crc8FeedBit (c : Byte) (d : Bool) : Byte :=
  if c.getLsbD 7 = d then c <<< 1 else (c <<< 1) ^^^ Config.crc8Poly

/-- A byte fed bit by bit, the most significant first. -/
def crc8BitSerial (c b : Byte) : Byte :=
  [7, 6, 5, 4, 3, 2, 1, 0].foldl (fun c k => crc8FeedBit c (b.getLsbD k)) c

/-- The operations of the CRC unit. -/
def usesCrc : Instr → Bool
  | .crc8Clr | .crc8Upd _ | .crc8Rd | .crc16Clr | .crc16Upd _ | .crc16Rd => true
  | _ => false

/-- The rows that act on the Modbus codec. -/
def usesModbus : Instr → Bool
  | .mbReq _ _ _ | .mbRxb _ | .mbTmo | .mbChk | .mbRead _ _ _ _ | .mbReqAdu _ _ _ | .mbRspAdu _ _ => true
  | _ => false

/-- The rows that act on the LinkParser. -/
def usesParser : Instr → Bool
  | .lpFeed _ | .lpRdc _ | .lpRst | .lpFeedn _ | .lfDec _ | .linkFrame _ _ _ => true
  | _ => false

/-- The rows that use no sub-unit's state: the LinkFrame encoder and the field block hold none
(spec/42_linkframe_encode.md R175), and the vocabularies are never inspected (spec/30_encoding.md R110, R111). -/
def isStateless : Instr → Bool
  | .lfEnc _ _ _ | .fbPack _ _ _ | .fbUnpack _ _ | .fieldBlock _ _ _ | .statusCodes _ | .commandNames _ => true
  | _ => false

/-- The row that sends on `link_tx`. -/
def usesLinkTx : Instr → Bool
  | .lfEnc _ _ _ => true
  | _ => false

end Sys2Proof.Machine
end

