-- ==== Sys2Proof/Certificates/Slice0/Obligations.lean ====
section
/-! DEFINITION. The statements for the provers. Each formalises what a numbered rule of spec/ says an operation or the block
does; where a clause rests on a choice of the model instead, its docstring names the log entry. -/

open Sys2Proof Sys2Proof.Machine

/-! ## Operation codes, encodings, the step -/

/-- R81: each operation code selects its operation. The operand bytes are in the model's own layout (log entry 2). -/
def Obligations.OperationCodesSelectTheirOperations : Prop :=
  decode [0x10] = .ok (.crc8Clr, []) ∧
  decode [0x11, 0xA5] = .ok (.crc8Upd 0xA5, []) ∧
  decode [0x12] = .ok (.crc8Rd, []) ∧
  decode [0x20] = .ok (.crc16Clr, []) ∧
  decode [0x21, 0x5A] = .ok (.crc16Upd 0x5A, []) ∧
  decode [0x22] = .ok (.crc16Rd, []) ∧
  decode [0x30, 0x01, 0x34, 0x12, 0x78, 0x56] = .ok (.mbReq 0x01 0x1234 0x5678, []) ∧
  decode [0x31, 0xC3] = .ok (.mbRxb 0xC3, []) ∧
  decode [0x32] = .ok (.mbTmo, []) ∧
  decode [0x33] = .ok (.mbChk, []) ∧
  decode [0x40, 0x01, 0x2A, 2, 0, 0, 0, 0xAA, 0x55] = .ok (.lfEnc 0x01 0x2A [0xAA, 0x55], []) ∧
  decode [0x41, 5, 0, 0, 0, 0, 0, 0, 0, 1, 1, 0x00, 0x00, 0x28, 0x42] = .ok (.fbPack 5 [0x42280000] [true], []) ∧
  decode [0x42, 1, 0, 0, 0, 0, 0, 0, 0, 1, 0, 0, 0, 0x7F] = .ok (.fbUnpack 1 [0x7F], []) ∧
  decode [0x50, 0xAA] = .ok (.lpFeed 0xAA, []) ∧
  decode [0x51, 2] = .ok (.lpRdc 2, []) ∧
  decode [0x52] = .ok (.lpRst, [])

/-- Every well-formed operation, written at the port with anything behind it, reads back as itself, and what stands
behind it is left. The operand layout is the model's own (log entry 2). -/
def Obligations.OperationsReadBackFromThePort : Prop :=
  ∀ (i : Instr) (n : Nat) (nan : U32) (rest : List Byte), (opCode i).isSome = true → wellFormed i = true →
    decode (encode n nan i ++ rest) = .ok (i, rest)

/-- R104: unlisted codes, and counter numbers above 2, are refused. -/
def Obligations.UnlistedCodesAndCountersAreRefused : Prop :=
  (∀ (s : State) (op : Byte) (bytes : List Byte), s.port = op :: bytes →
    op ∉ [0x10, 0x11, 0x12, 0x20, 0x21, 0x22, 0x30, 0x31, 0x32, 0x33, 0x40, 0x41, 0x42, 0x50, 0x51, 0x52] →
    step s = .refused (.unknownOp op)) ∧
  (∀ (s : State) (n : Nat), 2 < n → exec (.lpRdc n) s = .refused .noSuchCounter)

/-- A step executes the operation at the front of the port, with the port moved past it; at an empty port no step is
left, and the refusal says whether the run is over or unfinished (R280). That the operations stand at a port in State is
the model's choice (log entry 1). -/
def Obligations.StepRunsTheOperationAtThePort : Prop :=
  (∀ (s : State) (i : Instr) (rest : List Byte), decode s.port = .ok (i, rest) →
    step s = exec i { s with port := rest }) ∧
  (∀ s : State, s.port = [] →
    step s = .refused (if s.mb.state = .idle then .noOperation else .unfinishedRun))

/-- R83, R89, R90: the wire formats read back: a LinkFrame, a request ADU and a response ADU, each with anything behind
it. -/
def Obligations.WireFormatsReadBack : Prop :=
  (∀ (n : Nat) (nan : U32) (type seq : Byte) (payload rest : List Byte), payload.length ≤ 240 →
    decodeLinkFrame (encode n nan (.linkFrame type seq payload) ++ rest) = .ok (.linkFrame type seq payload, rest)) ∧
  (∀ (n : Nat) (nan : U32) (slave : Byte) (addr count : U16) (rest : List Byte),
    decodeRequestAdu (encode n nan (.mbReqAdu slave addr count) ++ rest) = .ok (.mbReqAdu slave addr count, rest)) ∧
  (∀ (n : Nat) (nan : U32) (slave : Byte) (words : List U16) (rest : List Byte), words.length ≤ 127 →
    decodeResponseAdu (encode n nan (.mbRspAdu slave words) ++ rest) = .ok (.mbRspAdu slave words, rest))

/-! ## Reset and invariants -/

/-- R38, R260: the values that the spec gives after reset. -/
def Obligations.ResetLeavesTheStatedValues : Prop :=
  State.reset.crc.c8 = 0x00 ∧ State.reset.crc.c16 = 0xFFFF ∧ State.reset.mb.state = .idle ∧
  State.reset.lp.stage = .wait ∧ State.reset.lp.idx = 0 ∧
  State.reset.lp.ctrFraming = 0 ∧ State.reset.lp.ctrLength = 0 ∧ State.reset.lp.ctrCrc = 0

/-- The invariant of the block holds after reset. For the registers that R38 leaves unspecified and for the parameters
this is about the model's own values (log entries 7 and 11). -/
def Obligations.ResetIsSound : Prop := Sound State.reset

/-- R213, R27 to R29, R31 to R34: every step keeps the invariant of the block. -/
def Obligations.EveryStepKeepsTheBlockSound : Prop :=
  ∀ s t : State, Sound s → step s = .next t → Sound t

/-- R22, R263 (1): no instruction changes a parameter; and none writes the port, which only the step moves (log entry
1). -/
def Obligations.NoInstructionChangesParametersOrPort : Prop :=
  ∀ (i : Instr) (s t : State), exec i s = .next t → t.par = s.par ∧ t.port = s.port

/-- R66: no operation of one sub-unit writes another's state or stream. -/
def Obligations.SubUnitsWriteOnlyTheirOwnState : Prop :=
  ∀ (i : Instr) (s t : State), exec i s = .next t →
    (usesCrc i = false → t.crc = s.crc) ∧
    (usesModbus i = false → t.mb = s.mb ∧ t.mbTx = s.mbTx) ∧
    (usesParser i = false → t.lp = s.lp ∧ t.emits = s.emits) ∧
    (usesLinkTx i = false → t.linkTx = s.linkTx)

/-- R66: no operation of one sub-unit reads another's state: from two states that agree on its own sub-unit and on the
parameters, it leaves that sub-unit the same, replies the same and sends or emits the same. The encoder, the field block
and the vocabularies read no state at all (R175): from two states with the same parameters they reply the same and send
the same. Every instruction is of one of the four kinds. -/
def Obligations.SubUnitsReadOnlyTheirOwnState : Prop :=
  (∀ (i : Instr) (s s' t : State), usesCrc i = true → s.crc = s'.crc → exec i s = .next t →
    ∃ t', exec i s' = .next t' ∧ t'.crc = t.crc ∧ t'.reply = t.reply) ∧
  (∀ (i : Instr) (s s' t : State), usesModbus i = true → s.mb = s'.mb → s.par = s'.par → exec i s = .next t →
    ∃ t', exec i s' = .next t' ∧ t'.mb = t.mb ∧ t'.reply = t.reply ∧
      ∃ sent, t.mbTx = s.mbTx ++ sent ∧ t'.mbTx = s'.mbTx ++ sent) ∧
  (∀ (i : Instr) (s s' t : State), usesParser i = true → s.lp = s'.lp → s.par = s'.par → exec i s = .next t →
    ∃ t', exec i s' = .next t' ∧ t'.lp = t.lp ∧ t'.reply = t.reply ∧
      ∃ frames, t.emits = s.emits ++ frames ∧ t'.emits = s'.emits ++ frames) ∧
  (∀ (i : Instr) (s s' t : State), isStateless i = true → s.par = s'.par → exec i s = .next t →
    ∃ t', exec i s' = .next t' ∧ t'.reply = t.reply ∧
      ∃ sent, t.linkTx = s.linkTx ++ sent ∧ t'.linkTx = s'.linkTx ++ sent) ∧
  (∀ i : Instr, usesCrc i = true ∨ usesModbus i = true ∨ usesParser i = true ∨ isStateless i = true)

/-- R221: the codes on the result-status output. -/
def Obligations.ResultStatusCodes : Prop :=
  statusCode .ok = 0x00 ∧ statusCode (.failed .errWrite) = 0x01 ∧ statusCode (.failed .errTimeout) = 0x02 ∧
  statusCode (.failed .errCrc16) = 0x03 ∧ statusCode (.failed .errAddrFunc) = 0x04 ∧
  statusCode (.failed .errLength) = 0x05 ∧ statusCode (.failed .errPayloadLen) = 0x06 ∧
  statusCode (.failed .errFbLen) = 0x07 ∧ (∀ r : Refusal, outcomeCode (.refused r) = 0xFF) ∧
  (∀ s : State, outcomeCode (.next s) = statusCode s.reply.status)

/-! ## The CRC unit -/

/-- R128, R130: `CRC8.CLR` and `CRC8.RD`, for every state, with everything else unchanged; R130's example. -/
def Obligations.Crc8ClearAndRead : Prop :=
  opCode .crc8Clr = some 0x10 ∧ opCode .crc8Rd = some 0x12 ∧
  (∀ s : State, exec .crc8Clr s =
    .next { s with crc := { s.crc with c8 := 0x00 }, reply := { status := .ok, value := .none } }) ∧
  (∀ s : State, exec .crc8Rd s = .next { s with reply := { status := .ok, value := .byte s.crc.c8 } }) ∧
  (∀ s : State, ∃ t, execAll [.crc8Clr, .crc8Upd 0x01, .crc8Upd 0x01, .crc8Upd 0x00, .crc8Upd 0x01, .crc8Upd 0x10,
    .crc8Rd] s = .next t ∧ t.reply = { status := .ok, value := .byte 0xFF })

/-- R129: `CRC8.UPD`: one byte, a sequence from wherever `c8` stood, a sequence after `CRC8.CLR`; its corner cases and
its examples. -/
def Obligations.Crc8UpdateAccumulates : Prop :=
  (∀ b : Byte, opCode (.crc8Upd b) = some 0x11) ∧
  (∀ (b : Byte) (s : State), exec (.crc8Upd b) s =
    .next { s with crc := { s.crc with c8 := crc8Step s.crc.c8 b }, reply := { status := .ok, value := .none } }) ∧
  (∀ (bytes : List Byte) (s : State), ∃ t, execAll (bytes.map .crc8Upd) s = .next t ∧
    t = { s with crc := { s.crc with c8 := bytes.foldl crc8Step s.crc.c8 }, reply := t.reply }) ∧
  (∀ (bytes : List Byte) (s : State), ∃ t, execAll (.crc8Clr :: bytes.map .crc8Upd) s = .next t ∧
    t.crc.c8 = crc8 bytes ∧ t.crc.c16 = s.crc.c16) ∧
  State.reset.crc.c8 = 0x00 ∧ crc8Step 0x00 0x00 = 0x00 ∧ crc8Step 0x00 0x01 = 0x31 ∧ crc8Step 0x31 0x01 = 0xC5

/-- R131, R133: `CRC16.CLR` and `CRC16.RD`, for every state, with everything else unchanged; directly after reset the
read returns 0xFFFF. -/
def Obligations.Crc16ClearAndRead : Prop :=
  opCode .crc16Clr = some 0x20 ∧ opCode .crc16Rd = some 0x22 ∧
  (∀ s : State, exec .crc16Clr s =
    .next { s with crc := { s.crc with c16 := 0xFFFF }, reply := { status := .ok, value := .none } }) ∧
  (∀ s : State, exec .crc16Rd s = .next { s with reply := { status := .ok, value := .word s.crc.c16 } }) ∧
  (∃ t, exec .crc16Rd State.reset = .next t ∧ t.reply = { status := .ok, value := .word 0xFFFF })

/-- R132: `CRC16.UPD`: one byte, a sequence from wherever `c16` stood, a sequence after `CRC16.CLR`; its example. -/
def Obligations.Crc16UpdateAccumulates : Prop :=
  (∀ b : Byte, opCode (.crc16Upd b) = some 0x21) ∧
  (∀ (b : Byte) (s : State), exec (.crc16Upd b) s =
    .next { s with crc := { s.crc with c16 := crc16Step s.crc.c16 b }, reply := { status := .ok, value := .none } }) ∧
  (∀ (bytes : List Byte) (s : State), ∃ t, execAll (bytes.map .crc16Upd) s = .next t ∧
    t = { s with crc := { s.crc with c16 := bytes.foldl crc16Step s.crc.c16 }, reply := t.reply }) ∧
  (∀ (bytes : List Byte) (s : State), ∃ t, execAll (.crc16Clr :: bytes.map .crc16Upd) s = .next t ∧
    t.crc.c16 = crc16 bytes ∧ t.crc.c8 = s.crc.c8) ∧
  crc16Step 0xFFFF 0x01 = 0x807E ∧ crc16Step 0x807E 0x03 = 0x2140 ∧ crc16Step 0x2140 0x00 = 0xF020 ∧
  crc16Step 0xF020 0x10 = 0x14F0 ∧ crc16Step 0x14F0 0x00 = 0x4414 ∧ crc16Step 0x4414 0x01 = 0xCF85

/-- R126: the CRC-8 is the left fold of the step from 0x00; its check value is 0xA2. The last two clauses are R125's
examples of the step. -/
def Obligations.Crc8IsTheFoldOfItsStep : Prop :=
  crc8 [] = 0x00 ∧ (∀ (s : List Byte) (b : Byte), crc8 (s ++ [b]) = crc8Step (crc8 s) b) ∧
  crc8 [0x31, 0x32, 0x33, 0x34, 0x35, 0x36, 0x37, 0x38, 0x39] = 0xA2 ∧
  crc8Step 0x00 0x01 = 0x31 ∧ crc8Step 0x00 0x80 = 0x7A

/-- R121: the CRC-16 is the left fold of the step from 0xFFFF; its check value is 0x4B37; on the wire its low byte goes
first. One clause is R120's example of the step. -/
def Obligations.Crc16IsTheFoldOfItsStep : Prop :=
  crc16 [] = 0xFFFF ∧ (∀ (s : List Byte) (b : Byte), crc16 (s ++ [b]) = crc16Step (crc16 s) b) ∧
  crc16 [0x31, 0x32, 0x33, 0x34, 0x35, 0x36, 0x37, 0x38, 0x39] = 0x4B37 ∧ crc16Step 0xFFFF 0x01 = 0x807E ∧
  (∀ (slave : Byte) (addr count : U16),
    requestAdu slave addr count =
      requestBody slave addr count ++
        [lo (crc16 (requestBody slave addr count)), hi (crc16 (requestBody slave addr count))])

/-- R127: a message followed by its own CRC-8 gives 0; the step is a bijection for each byte; sequences of one length
that differ in exactly one byte have different values; zeros give 0. -/
def Obligations.Crc8DetectsEveryOneByteChange : Prop :=
  (∀ m : List Byte, crc8 (m ++ [crc8 m]) = 0x00) ∧
  (∀ b : Byte, Function.Bijective (fun c => crc8Step c b)) ∧
  (∀ (before after : List Byte) (x y : Byte), x ≠ y → crc8 (before ++ x :: after) ≠ crc8 (before ++ y :: after)) ∧
  (∀ n : Nat, crc8 (List.replicate n 0x00) = 0x00)

/-- R122: a message followed by its own CRC-16, low byte first, gives 0, and by no other word, so that the residue test
and the comparison accept the same responses; the step is a bijection for each byte; a change of one byte always
changes the value. -/
def Obligations.Crc16DetectsEveryOneByteChange : Prop :=
  (∀ m : List Byte, crc16 (m ++ le16 (crc16 m)) = 0x0000) ∧
  (∀ (m : List Byte) (k : U16), crc16 (m ++ le16 k) = 0x0000 ↔ k = crc16 m) ∧
  (∀ b : Byte, Function.Bijective (fun c => crc16Step c b)) ∧
  (∀ (before after : List Byte) (x y : Byte), x ≠ y → crc16 (before ++ x :: after) ≠ crc16 (before ++ y :: after))

/-- R125: feeding the data bits one at a time against bit 7 gives the same values as the step. -/
def Obligations.Crc8BitSerialFormulationAgrees : Prop :=
  ∀ c b : Byte, crc8BitSerial c b = crc8Step c b

/-! ## The Modbus codec -/

/-- R140, R142: in IDLE with `count` in bounds a request completes. Where the write does not fail, the eight bytes of
R89 go out and the transaction starts; where it fails, no register is written, the failure is `ERR_WRITE` and some
part of the eight bytes has gone out. Nothing else changes. An `MB_REQ_ADU` going out is such a request (log entry
15). -/
def Obligations.RequestSendsItsAduAndStartsTheTransaction : Prop :=
  ∀ (s : State) (slave : Byte) (addr count : U16), s.mb.state = .idle → count.toNat ≤ s.par.mbCountMax →
    ∃ t, exec (.mbReq slave addr count) s = .next t ∧ exec (.mbReqAdu slave addr count) s = .next t ∧
      (let head := [slave, 0x03, hi addr, lo addr, hi count, lo count]
       let adu := head ++ [lo (crc16 head), hi (crc16 head)]
       if Config.writeFails s.mb.draws = true then
         (∃ sent, sent ≤ 8 ∧ t.mbTx = s.mbTx ++ adu.take sent) ∧ t.mb = { s.mb with draws := t.mb.draws } ∧
         t.reply = { status := .failed .errWrite, value := .none }
       else
         t.mbTx = s.mbTx ++ adu ∧ t.reply = { status := .ok, value := .none } ∧
         t.mb = { state := .recv, slave := slave, count := count, need := 3 + 2 * count.toNat + 2, cnt := 0, buf := [],
                  draws := t.mb.draws }) ∧
      t = { s with mb := t.mb, mbTx := t.mbTx, reply := t.reply }

/-- R141: a request is refused while a transaction is in flight, and above `MB_COUNT_MAX`; with the default 65535 the
second never holds. -/
def Obligations.RequestIsRefusedInFlightOrAboveTheMaximum : Prop :=
  (∀ (s : State) (slave : Byte) (addr count : U16), s.mb.state = .recv →
    exec (.mbReq slave addr count) s = .refused .transactionInFlight) ∧
  (∀ (s : State) (slave : Byte) (addr count : U16), s.mb.state = .idle → s.par.mbCountMax < count.toNat →
    exec (.mbReq slave addr count) s = .refused .countAboveMax) ∧
  (∀ count : U16, ¬ 65535 < count.toNat)

/-- R145: a byte is accumulated whatever its value while bytes are missing; otherwise it is refused. -/
def Obligations.ReceivedByteIsAppended : Prop :=
  ∀ (s : State) (b : Byte), opCode (.mbRxb b) = some 0x31 ∧
    (s.mb.state = .recv → s.mb.cnt ≠ s.mb.need → exec (.mbRxb b) s =
      .next { s with mb := { s.mb with buf := s.mb.buf ++ [b], cnt := s.mb.cnt + 1 },
                     reply := { status := .ok, value := .none } }) ∧
    (s.mb.state = .idle ∨ s.mb.cnt = s.mb.need → exec (.mbRxb b) s = .refused .receiveNotEnabled)

/-- R28, R29, R145, R146: bytes that fit are accumulated in arrival order. An `MB_RSP_ADU` arriving (log entry 15) is taken
as far as it fits into the expected length, in IDLE not at all; the bytes behind that stay in the stream. -/
def Obligations.ResponseBytesAccumulateInOrder : Prop :=
  (∀ (s : State) (bytes : List Byte), s.mb.state = .recv → s.mb.cnt + bytes.length ≤ s.mb.need →
    ∃ t, execAll (bytes.map .mbRxb) s = .next t ∧
      t = { s with mb := { s.mb with buf := s.mb.buf ++ bytes, cnt := s.mb.cnt + bytes.length }, reply := t.reply }) ∧
  (∀ (s : State) (slave : Byte) (words : List U16), words.length ≤ 127 → s.mb.cnt ≤ s.mb.need →
    let adu := responseAdu slave words
    let room := if s.mb.state = .recv then s.mb.need - s.mb.cnt else 0
    adu.length = 5 + 2 * words.length ∧
    exec (.mbRspAdu slave words) s =
      .next { s with mb := { s.mb with buf := s.mb.buf ++ adu.take room, cnt := s.mb.cnt + min room adu.length },
                     reply := { status := .ok, value := .bytes (adu.drop room) } })

/-- R147: the timeout ends an incomplete transaction in `ERR_TIMEOUT` and changes nothing else but registers that are
unspecified in IDLE; otherwise it is refused. That the number of received bytes goes with the failure is the model's
choice of what R147 allows (log entry 17). -/
def Obligations.TimeoutFailsAnIncompleteTransaction : Prop :=
  ∀ s : State,
    (s.mb.state = .recv → s.mb.cnt ≠ s.mb.need → ∃ t, exec .mbTmo s = .next t ∧ t.mb.state = .idle ∧
      t = { s with mb := t.mb, reply := { status := .failed .errTimeout, value := .received s.mb.cnt } }) ∧
    (s.mb.state = .idle ∨ s.mb.cnt = s.mb.need → exec .mbTmo s = .refused .timeoutNotEnabled)

/-- R150 (with R151 and R152): a complete response ends the transaction; the first of the three validations that fails
is the failure, and where none fails the words are delivered in order. Nothing else changes but registers that are
unspecified in IDLE. An incomplete response is refused. -/
def Obligations.CheckReportsTheFirstFailedValidation : Prop :=
  opCode .mbChk = some 0x33 ∧ ∀ s : State,
    (s.mb.state = .recv → s.mb.need ≤ s.mb.cnt → ∃ t, exec .mbChk s = .next t ∧ t.mb.state = .idle ∧
      t = { s with mb := t.mb, reply := t.reply } ∧
      (let r := s.mb.buf
       let k := crc16 (r.take (s.mb.need - 2))
       if r.getD (s.mb.need - 2) 0 ≠ lo k ∨ r.getD (s.mb.need - 1) 0 ≠ hi k then
         t.reply = { status := .failed .errCrc16, value := .none }
       else if r.getD 0 0 ≠ s.mb.slave ∨ r.getD 1 0 ≠ 0x03 then
         t.reply = { status := .failed .errAddrFunc, value := .none }
       else if (r.getD 2 0).toNat ≠ 2 * s.mb.count.toNat then
         t.reply = { status := .failed .errLength, value := .none }
       else
         ∃ ws : List U16, t.reply = { status := .ok, value := .words ws } ∧ ws.length = s.mb.count.toNat ∧
           ∀ (i : Nat) (w : U16), ws[i]? = some w →
             w.toNat = 256 * (r.getD (3 + 2 * i) 0).toNat + (r.getD (4 + 2 * i) 0).toNat)) ∧
    (s.mb.state = .idle ∨ s.mb.cnt < s.mb.need → exec .mbChk s = .refused .checkNotEnabled)

/-- R90, R145, R150: a response ADU for the request in flight, received byte by byte and checked, delivers exactly its
words, in order. -/
def Obligations.ValidResponseDeliversItsWords : Prop :=
  ∀ (s : State) (words : List U16), words.length ≤ 127 → s.mb.state = .recv → s.mb.count.toNat = words.length →
    s.mb.need = 5 + 2 * words.length → s.mb.cnt = 0 → s.mb.buf = [] →
    ∃ t, execAll ((responseAdu s.mb.slave words).map .mbRxb ++ [.mbChk]) s = .next t ∧
      t.mb.state = .idle ∧ t.reply = { status := .ok, value := .words words }

/-- R150, R122 (c): a response ADU of the expected length in which exactly one byte, wherever it stands, has another
value, received byte by byte and checked, fails with `ERR_CRC16` and delivers no word. -/
def Obligations.OneChangedResponseByteFailsTheCrc : Prop :=
  ∀ (s : State) (slave : Byte) (words : List U16) (before after : List Byte) (x y : Byte), words.length ≤ 127 →
    responseAdu slave words = before ++ x :: after → x ≠ y → s.mb.state = .recv →
    s.mb.need = 5 + 2 * words.length → s.mb.cnt = 0 → s.mb.buf = [] →
    ∃ t, execAll ((before ++ y :: after).map .mbRxb ++ [.mbChk]) s = .next t ∧
      t.mb.state = .idle ∧ t.reply = { status := .failed .errCrc16, value := .none }

/-- R155 (b), R270: a request for 128 registers or more never succeeds; where the response has a good CRC and a good
echo the failure is `ERR_LENGTH`. -/
def Obligations.LargeCountsNeverSucceed : Prop :=
  ∀ s : State, s.mb.state = .recv → s.mb.need ≤ s.mb.cnt → 128 ≤ s.mb.count.toNat →
    ∃ t, exec .mbChk s = .next t ∧ t.reply.status ≠ .ok ∧
      (let r := s.mb.buf
       let k := crc16 (r.take (s.mb.need - 2))
       r.getD (s.mb.need - 2) 0 = lo k → r.getD (s.mb.need - 1) 0 = hi k →
         r.getD 0 0 = s.mb.slave → r.getD 1 0 = 0x03 →
         t.reply = { status := .failed .errLength, value := .none })

/-- R153, R106: `MB.READ` is its expansion: the request, the environment's bytes while they fit, then the timeout where
any is missing, else the check; where the request's write fails, or is refused, it is the request alone. The
environment's bytes are an operand in the model (log entry 14). -/
def Obligations.ReadCallIsItsExpansion : Prop :=
  (∀ (s : State) (slave : Byte) (addr count : U16) (rx : List Byte),
    s.mb.state = .recv ∨ s.par.mbCountMax < count.toNat →
    exec (.mbRead slave addr count rx) s = exec (.mbReq slave addr count) s ∧
    exec (.mbRead slave addr count rx) s =
      .refused (if s.mb.state = .recv then .transactionInFlight else .countAboveMax)) ∧
  ∀ (s : State) (slave : Byte) (addr count : U16) (rx : List Byte), s.mb.state = .idle →
    count.toNat ≤ s.par.mbCountMax →
    exec (.mbRead slave addr count rx) s =
      (if Config.writeFails s.mb.draws = true then exec (.mbReq slave addr count) s
       else execAll (.mbReq slave addr count :: ((rx.take (5 + 2 * count.toNat)).map .mbRxb
         ++ [if rx.length < 5 + 2 * count.toNat then .mbTmo else .mbChk])) s)

/-- R153: the whole call ends in IDLE, with `count` words or one of the five failures. -/
def Obligations.ReadCallEndsIdleWithWordsOrOneFailure : Prop :=
  ∀ (s : State) (slave : Byte) (addr count : U16) (rx : List Byte), s.mb.state = .idle →
    count.toNat ≤ s.par.mbCountMax →
    ∃ t, exec (.mbRead slave addr count rx) s = .next t ∧ t.mb.state = .idle ∧
      ((∃ ws, t.reply = { status := .ok, value := .words ws } ∧ ws.length = count.toNat) ∨
       t.reply.status ∈ [.failed .errWrite, .failed .errTimeout, .failed .errCrc16, .failed .errAddrFunc,
         .failed .errLength])

/-- R153: the whole call on a valid response. Where the request's write does not fail, the request goes out, the response
arrives (with anything behind it) and the call's result is exactly its words; where it fails, the result is
`ERR_WRITE`. Nothing outside the codec changes. The environment's bytes are an operand in the model (log entry 14). -/
def Obligations.ReadCallDeliversTheWordsThatArrive : Prop :=
  ∀ (s : State) (slave : Byte) (addr : U16) (words : List U16) (late : List Byte), s.mb.state = .idle →
    words.length ≤ 127 → words.length ≤ s.par.mbCountMax →
    ∃ t, exec (.mbRead slave addr (BitVec.ofNat 16 words.length) (responseAdu slave words ++ late)) s = .next t ∧
      t.mb.state = .idle ∧ t = { s with mb := t.mb, mbTx := t.mbTx, reply := t.reply } ∧
      (let adu := requestAdu slave addr (BitVec.ofNat 16 words.length)
       if Config.writeFails s.mb.draws = true then
         (∃ sent, sent ≤ 8 ∧ t.mbTx = s.mbTx ++ adu.take sent) ∧
         t.reply = { status := .failed .errWrite, value := .none }
       else t.mbTx = s.mbTx ++ adu ∧ t.reply = { status := .ok, value := .words words })

/-- R156, R269: whatever bytes arrive, the result of a read does not depend on the register address it asked for: a
stale response to another address is accepted. -/
def Obligations.ReadCallCannotTellTheAddress : Prop :=
  ∀ (s : State) (slave : Byte) (addr addr' count : U16) (rx : List Byte), s.mb.state = .idle →
    count.toNat ≤ s.par.mbCountMax →
    ∃ t t', exec (.mbRead slave addr count rx) s = .next t ∧ exec (.mbRead slave addr' count rx) s = .next t' ∧
      t.reply = t'.reply ∧ t.mb = t'.mb

/-- R149, R280: a transaction in flight always has a step to take: while bytes are missing, a byte and the timeout;
once all are there, the check, and then neither of the others. So a run that stops there is unfinished; it is over
exactly in a quiescent state, in IDLE and with no operation offered. -/
def Obligations.TransactionInFlightHasAStep : Prop :=
  (∀ s : State, step s = .refused .noOperation ↔ s.Quiescent) ∧
  (∀ s : State, step s = .refused .unfinishedRun ↔ s.port = [] ∧ s.mb.state = .recv) ∧
  ∀ s : State, Sound s → s.mb.state = .recv →
    (s.mb.cnt < s.mb.need ∧ (∀ b : Byte, ∃ t, exec (.mbRxb b) s = .next t) ∧ (∃ t, exec .mbTmo s = .next t) ∧
      exec .mbChk s = .refused .checkNotEnabled) ∨
    (s.mb.cnt = s.mb.need ∧ (∃ t, exec .mbChk s = .next t) ∧ exec .mbTmo s = .refused .timeoutNotEnabled ∧
      ∀ b : Byte, exec (.mbRxb b) s = .refused .receiveNotEnabled)

/-! ## The LinkFrame encoder and the field block -/

/-- R170, R171: a payload of at most 240 bytes is sent as one frame, which is also the result; a longer one fails
before anything is sent. Nothing else changes. The last clauses are R170's example and the frame's length. -/
def Obligations.EncoderSendsOneFrameOrNothing : Prop :=
  (∀ (s : State) (type seq : Byte) (payload : List Byte), payload.length ≤ 240 →
    let body := [0x01, type, seq, BitVec.ofNat 8 payload.length] ++ payload
    let frame := [0xAA] ++ body ++ [crc8 body, 0x55]
    frame.length = payload.length + 7 ∧
    exec (.lfEnc type seq payload) s =
      .next { s with linkTx := s.linkTx ++ frame, reply := { status := .ok, value := .bytes frame } }) ∧
  (∀ (s : State) (type seq : Byte) (payload : List Byte), 240 < payload.length →
    exec (.lfEnc type seq payload) s =
      .next { s with reply := { status := .failed .errPayloadLen, value := .none } }) ∧
  (∀ type seq : Byte, opCode (.lfEnc type seq []) = some 0x40) ∧
  (∃ t, exec (.lfEnc 0x01 0x2A [0x01, 0x02, 0x03, 0x04, 0x05]) State.reset = .next t ∧
    t.linkTx = [0xAA, 0x01, 0x01, 0x2A, 0x05, 0x01, 0x02, 0x03, 0x04, 0x05, 0xBD, 0x55])

/-- R182: for every type, every sequence number and every payload of at most 240 bytes, decoding the encoded frame
returns exactly that frame with all counters 0. -/
def Obligations.EncodedFramesDecodeBack : Prop :=
  ∀ (s : State) (type seq : Byte) (payload : List Byte), payload.length ≤ 240 →
    ∃ u frame t, exec (.lfEnc type seq payload) s = .next u ∧ u.reply = { status := .ok, value := .bytes frame } ∧
      exec (.lfDec frame) u = .next t ∧
      t.reply = { status := .ok,
                  value := .decoded [{ version := 0x01, type := type, seq := seq, payload := payload }] 0 0 0 } ∧
      t.lp.stage = .wait ∧ t.lp.ctrFraming = 0 ∧ t.lp.ctrLength = 0 ∧ t.lp.ctrCrc = 0

/-- R178: the size law of the field block, whatever values and presences are; nothing is sent and no state changes. That
it holds of lists of any length, where R176 asks for `N_FIELDS` entries, is about the model's reading (log entry 13). -/
def Obligations.FieldBlockSizeLaw : Prop :=
  (∀ (s : State) (mask : Nat) (vals : List U32) (present : List Bool), mask < 2 ^ s.par.nFields →
    ∃ block, exec (.fbPack mask vals present) s = .next { s with reply := { status := .ok, value := .bytes block } } ∧
      block.length = 4 * popcount s.par.nFields mask ∧ (mask = 0 → block = []) ∧
      (mask = 2 ^ s.par.nFields - 1 → block.length = 4 * s.par.nFields)) ∧
  (List.range 8).map (fun mask => 4 * popcount 3 mask) = [0, 4, 4, 8, 4, 8, 8, 12]

/-- `FIELD_BLOCK` builds the block of its mask: one pattern of four bytes per selected field, ascending, and nothing else
changes. That the row stands for the building of a block is the model's choice (log entry 15), and lists of another
length than `N_FIELDS` follow log entry 13. -/
def Obligations.FieldBlockRowBuildsTheBlock : Prop :=
  ∀ (s : State) (mask : Nat) (vals : List U32) (present : List Bool), mask < 2 ^ s.par.nFields →
    ∃ block, exec (.fieldBlock mask vals present) s =
        .next { s with reply := { status := .ok, value := .bytes block } } ∧
      block.length = 4 * popcount s.par.nFields mask ∧
      block = ((List.range s.par.nFields).filter (fun i => mask.testBit i)).flatMap
        (fun i => le32 (if present[i]? = some true then (vals[i]?).getD s.par.fbNan else s.par.fbNan))

/-- R92, with R176 and R177: with the set bits `i_0 < i_1 < ...` of the mask, the value of set bit number `j` stands at offset
`4*j`, least significant byte first: the field's own pattern where it is present, `FB_NAN` where it is absent. -/
def Obligations.FieldBlockPlacesEachValue : Prop :=
  ∀ (s : State) (mask : Nat) (vals : List U32) (present : List Bool), mask < 2 ^ s.par.nFields →
    vals.length = s.par.nFields → present.length = s.par.nFields →
    ∃ (bits : List Nat) (block : List Byte),
      exec (.fbPack mask vals present) s = .next { s with reply := { status := .ok, value := .bytes block } } ∧
      bits.Pairwise (· < ·) ∧ (∀ i, i ∈ bits ↔ mask.testBit i = true) ∧ block.length = 4 * bits.length ∧
      ∀ (j i : Nat), bits[j]? = some i →
        (∀ v, present[i]? = some true → vals[i]? = some v → (block.drop (4 * j)).take 4 = le32 v) ∧
        (present[i]? = some false → (block.drop (4 * j)).take 4 = le32 s.par.fbNan)

/-- R181: the round trip of the field block: for each set bit the value comes back where it is present; where it is
absent `FB_NAN` comes back, reported absent. -/
def Obligations.FieldBlockRoundTrip : Prop :=
  ∀ (s : State) (mask : Nat) (vals : List U32) (present : List Bool), mask < 2 ^ s.par.nFields →
    vals.length = s.par.nFields → present.length = s.par.nFields → isnan32 s.par.fbNan = true →
    ∃ u block t fields, exec (.fbPack mask vals present) s = .next u ∧
      u.reply = { status := .ok, value := .bytes block } ∧ exec (.fbUnpack mask block) u = .next t ∧
      t.reply = { status := .ok, value := .fields fields } ∧
      (fields.map (·.index)).Pairwise (· < ·) ∧
      (∀ i, (∃ f ∈ fields, f.index = i) ↔ mask.testBit i = true) ∧
      ∀ f ∈ fields, (present[f.index]? = some true → vals[f.index]? = some f.value) ∧
        (present[f.index]? = some false → f.value = s.par.fbNan ∧ f.absent = true)

/-- R180: a block of another length than the mask's fails with `ERR_FB_LEN`; of the right length, the set bits come
back in ascending order, the `j`-th with the pattern of bytes `4j` to `4j+3`, absent exactly where it is a NaN. No
state changes. -/
def Obligations.UnpackReportsEachSetBit : Prop :=
  ∀ (s : State) (mask : Nat) (bytes : List Byte), mask < 2 ^ s.par.nFields →
    (bytes.length ≠ 4 * popcount s.par.nFields mask →
      exec (.fbUnpack mask bytes) s =
        .next { s with reply := { status := .failed .errFbLen, value := .none } }) ∧
    (bytes.length = 4 * popcount s.par.nFields mask →
      ∃ fields, exec (.fbUnpack mask bytes) s =
          .next { s with reply := { status := .ok, value := .fields fields } } ∧
        (fields.map (·.index)).Pairwise (· < ·) ∧
        (∀ i, (∃ f ∈ fields, f.index = i) ↔ mask.testBit i = true) ∧
        ∀ (j : Nat) (f : FieldValue), fields[j]? = some f →
          f.value.toNat = (bytes.getD (4 * j) 0).toNat + 256 * (bytes.getD (4 * j + 1) 0).toNat
            + 65536 * (bytes.getD (4 * j + 2) 0).toNat + 16777216 * (bytes.getD (4 * j + 3) 0).toNat ∧
          (f.absent = true ↔ f.value.toNat / 2 ^ 23 % 256 = 255 ∧ f.value.toNat % 2 ^ 23 ≠ 0))

/-- R176, R180: a mask with a bit at or above `N_FIELDS` is refused, whatever the other operands are. For `FIELD_BLOCK`
this rests on the row's standing for `FB.PACK` (log entry 15), for lists of another length than `N_FIELDS` on log entry
13. -/
def Obligations.WideMasksAreRefused : Prop :=
  ∀ (s : State) (mask : Nat) (vals : List U32) (present : List Bool) (bytes : List Byte),
    2 ^ s.par.nFields ≤ mask →
    exec (.fbPack mask vals present) s = .refused .maskTooWide ∧
    exec (.fbUnpack mask bytes) s = .refused .maskTooWide ∧
    exec (.fieldBlock mask vals present) s = .refused .maskTooWide

/-! ## The LinkParser -/

/-- R190 (with R193 to R200): the transition table, row by row: what a byte writes in each stage, which counter goes up, what is
emitted. A frame reset leaves the header registers and the buffer unspecified, so the rows that reset say nothing of
them. Nothing outside the parser, its emit output and the reply changes. The clauses before are R190's code and
example. -/
def Obligations.FeedFollowsTheTransitionTable : Prop :=
  (∀ b : Byte, opCode (.lpFeed b) = some 0x50) ∧
  (List.range 8).map (fun n => (State.reset.lp.feedAll 32
      ([0xAA, 0x01, 0x01, 0x00, 0x00, 0xDD, 0x55].take n)).stage) =
    [.wait, .hdr0, .hdr1, .hdr2, .hdr3, .checksum, .endMark, .wait] ∧
  (∃ t, exec (.lpFeedn [0xAA, 0x01, 0x01, 0x00, 0x00, 0xDD, 0x55]) State.reset = .next t ∧
    t.emits = [{ version := 1, type := 1, seq := 0, payload := [] }]) ∧
  ∀ (s : State) (b : Byte), ∃ t frames, exec (.lpFeed b) s = .next t ∧
    t = { s with lp := t.lp, emits := s.emits ++ frames, reply := { status := .ok, value := .frames frames } } ∧
    (let p := s.lp
     let q := t.lp
     let collected := p.buf.toList.take p.len.toNat
     let crc := crc8 ([p.ver, p.type, p.seq, p.len] ++ collected)
     let silent := frames = []
     let reset := q.stage = .wait ∧ q.idx = 0
     let framing := q.ctrFraming = (p.ctrFraming + 1) % 2 ^ s.par.ctrW
     let length := q.ctrLength = (p.ctrLength + 1) % 2 ^ s.par.ctrW
     let crcs := q.ctrCrc = (p.ctrCrc + 1) % 2 ^ s.par.ctrW
     let framingKept := q.ctrFraming = p.ctrFraming
     let lengthKept := q.ctrLength = p.ctrLength
     let crcKept := q.ctrCrc = p.ctrCrc
     match p.stage with
     | .wait => silent ∧ q = (if b = 0xAA then { p with stage := .hdr0 } else p)
     | .hdr0 =>
       silent ∧ (b = 0x01 → q = { p with ver := b, stage := .hdr1 }) ∧
       (b ≠ 0x01 → reset ∧ framingKept ∧ lengthKept ∧ crcKept)
     | .hdr1 => silent ∧ q = { p with type := b, stage := .hdr2 }
     | .hdr2 => silent ∧ q = { p with seq := b, stage := .hdr3 }
     | .hdr3 =>
       silent ∧ (b = 0 → q = { p with len := 0, idx := 0, stage := .checksum }) ∧
       (1 ≤ b.toNat → b.toNat ≤ 240 → q = { p with len := b, idx := 0, stage := .payload }) ∧
       (240 < b.toNat → reset ∧ framingKept ∧ length ∧ crcKept)
     | .payload =>
       silent ∧
       (p.idx + 1 < p.len.toNat → q = { p with buf := p.buf.setIfInBounds p.idx b, idx := p.idx + 1 }) ∧
       (p.idx + 1 = p.len.toNat →
         q = { p with buf := p.buf.setIfInBounds p.idx b, idx := p.idx + 1, stage := .checksum })
     | .checksum =>
       silent ∧ (b = crc → q = { p with stage := .endMark }) ∧
       (b ≠ crc → reset ∧ framingKept ∧ lengthKept ∧ crcs)
     | .endMark =>
       reset ∧ lengthKept ∧ crcKept ∧
       (b = 0x55 → framingKept ∧
         frames = [{ version := p.ver, type := p.type, seq := p.seq, payload := collected }]) ∧
       (b ≠ 0x55 → framing ∧ silent))

/-- R203: `LP.FEED` is total: in every state, for every byte, it completes ok. -/
def Obligations.FeedIsTotal : Prop :=
  ∀ (s : State) (b : Byte), ∃ t, exec (.lpFeed b) s = .next t ∧ t.reply.status = .ok

/-- R202: each `LP.FEED` changes at most one counter, by exactly one, each on its own path and with the parser back in
`WAIT`; on every other path, the resynchronisation and the version mismatch (both back in `WAIT`) among them, all three
are kept. -/
def Obligations.FeedChangesAtMostOneCounter : Prop :=
  ∀ (s : State) (b : Byte), ∃ t, exec (.lpFeed b) s = .next t ∧
    (let up := fun n : Nat => (n + 1) % 2 ^ s.par.ctrW
     (s.lp.stage = .hdr3 ∧ 240 < b.toNat ∧ t.lp.stage = .wait ∧ t.lp.ctrLength = up s.lp.ctrLength ∧
       t.lp.ctrFraming = s.lp.ctrFraming ∧ t.lp.ctrCrc = s.lp.ctrCrc) ∨
     (s.lp.stage = .checksum ∧ b ≠ crc8 ([s.lp.ver, s.lp.type, s.lp.seq, s.lp.len]
         ++ s.lp.buf.toList.take s.lp.len.toNat) ∧
       t.lp.stage = .wait ∧ t.lp.ctrCrc = up s.lp.ctrCrc ∧
       t.lp.ctrFraming = s.lp.ctrFraming ∧ t.lp.ctrLength = s.lp.ctrLength) ∨
     (s.lp.stage = .endMark ∧ b ≠ 0x55 ∧ t.lp.stage = .wait ∧ t.lp.ctrFraming = up s.lp.ctrFraming ∧
       t.lp.ctrLength = s.lp.ctrLength ∧ t.lp.ctrCrc = s.lp.ctrCrc) ∨
     (¬ (s.lp.stage = .hdr3 ∧ 240 < b.toNat) ∧ ¬ (s.lp.stage = .endMark ∧ b ≠ 0x55) ∧
       ¬ (s.lp.stage = .checksum ∧ b ≠ crc8 ([s.lp.ver, s.lp.type, s.lp.seq, s.lp.len]
         ++ s.lp.buf.toList.take s.lp.len.toNat)) ∧
       t.lp.ctrFraming = s.lp.ctrFraming ∧ t.lp.ctrLength = s.lp.ctrLength ∧ t.lp.ctrCrc = s.lp.ctrCrc ∧
       (s.lp.stage = .hdr0 → b ≠ 0x01 → t.lp.stage = .wait) ∧ (s.lp.stage = .wait → b ≠ 0xAA → t.lp.stage = .wait)))

/-- R34: an increment at `2^CTR_W - 1` wraps to 0, for each of the three counters. -/
def Obligations.CountersWrap : Prop :=
  ∀ (s : State) (b : Byte), ∃ t, exec (.lpFeed b) s = .next t ∧
    (s.lp.stage = .hdr3 → 240 < b.toNat → s.lp.ctrLength = 2 ^ s.par.ctrW - 1 → t.lp.ctrLength = 0) ∧
    (s.lp.stage = .checksum → b ≠ crc8 ([s.lp.ver, s.lp.type, s.lp.seq, s.lp.len]
        ++ s.lp.buf.toList.take s.lp.len.toNat) →
      s.lp.ctrCrc = 2 ^ s.par.ctrW - 1 → t.lp.ctrCrc = 0) ∧
    (s.lp.stage = .endMark → b ≠ 0x55 → s.lp.ctrFraming = 2 ^ s.par.ctrW - 1 → t.lp.ctrFraming = 0)

/-- R201: the byte that aborts a frame is consumed, START itself among them: the parser is in `WAIT` after it. -/
def Obligations.AbortingByteIsConsumed : Prop :=
  ∀ s : State, ∃ t, exec (.lpFeed 0xAA) s = .next t ∧
    (s.lp.stage = .hdr0 ∨ s.lp.stage = .endMark ∨
      (s.lp.stage = .checksum ∧ 0xAA ≠ crc8 ([s.lp.ver, s.lp.type, s.lp.seq, s.lp.len]
        ++ s.lp.buf.toList.take s.lp.len.toNat)) → t.lp.stage = .wait)

/-- R201, R272: a stray START directly before a frame that holds no further START value loses the frame: nothing is
emitted and no counter moves. -/
def Obligations.StrayStartLosesTheFrame : Prop :=
  ∀ (s : State) (type seq : Byte) (payload : List Byte), s.lp.stage = .wait → payload.length ≤ 240 →
    0xAA ∉ (linkFrameBytes type seq payload).drop 1 →
    ∃ t, exec (.lpFeedn (0xAA :: linkFrameBytes type seq payload)) s = .next t ∧ t.emits = s.emits ∧
      t.lp.stage = .wait ∧ t.lp.ctrFraming = s.lp.ctrFraming ∧ t.lp.ctrLength = s.lp.ctrLength ∧
      t.lp.ctrCrc = s.lp.ctrCrc

/-- R207: a batch is its bytes fed one after another; it can be split anywhere with the same final parser and the same
frames in the same order; the empty batch changes nothing; R207's example. -/
def Obligations.BatchesSplitAnywhere : Prop :=
  (∀ (s : State) (bytes : List Byte), ∃ t u frames, exec (.lpFeedn bytes) s = .next t ∧
    execAll (bytes.map .lpFeed) s = .next u ∧ t.reply = { status := .ok, value := .frames frames } ∧
    t.emits = s.emits ++ frames ∧ u = { t with reply := u.reply }) ∧
  (∀ (s : State) (a b : List Byte), ∃ t u v f g, exec (.lpFeedn a) s = .next t ∧ exec (.lpFeedn b) t = .next u ∧
    exec (.lpFeedn (a ++ b)) s = .next v ∧ v.lp = u.lp ∧ v.emits = u.emits ∧
    t.reply.value = .frames f ∧ u.reply.value = .frames g ∧ v.reply.value = .frames (f ++ g)) ∧
  (∀ s : State, exec (.lpFeedn []) s = .next { s with reply := { status := .ok, value := .frames [] } }) ∧
  (∃ t, exec (.lpFeedn [0xAA, 0x01, 0x01, 0x01, 0x01, 0x10, 0xB9, 0x55, 0xAA, 0x01, 0x02, 0x02, 0x00, 0xCE, 0x55])
      State.reset = .next t ∧
    t.emits = [{ version := 1, type := 0x01, seq := 0x01, payload := [0x10] },
               { version := 1, type := 0x02, seq := 0x02, payload := [] }])

/-- R208: `LF.DEC` is `LP.RST` and then `LP.FEEDN`; the result is the frames together with the three counters. -/
def Obligations.DecodeIsResetThenFeed : Prop :=
  ∀ (s : State) (bytes : List Byte), ∃ u v frames, exec .lpRst s = .next u ∧ exec (.lpFeedn bytes) u = .next v ∧
    v.reply = { status := .ok, value := .frames frames } ∧
    exec (.lfDec bytes) s = .next { v with reply :=
      { status := .ok, value := .decoded frames v.lp.ctrFraming v.lp.ctrLength v.lp.ctrCrc } }

/-- R209: reading a counter returns it and changes nothing; a number above 2 is refused; R209's example. -/
def Obligations.ReadingACounterChangesNothing : Prop :=
  (∀ n : Nat, opCode (.lpRdc n) = some 0x51) ∧
  (∀ s : State, exec (.lpRdc 0) s = .next { s with reply := { status := .ok, value := .counter s.lp.ctrFraming } }) ∧
  (∀ s : State, exec (.lpRdc 1) s = .next { s with reply := { status := .ok, value := .counter s.lp.ctrLength } }) ∧
  (∀ s : State, exec (.lpRdc 2) s = .next { s with reply := { status := .ok, value := .counter s.lp.ctrCrc } }) ∧
  (∀ (s : State) (n : Nat), 2 < n → exec (.lpRdc n) s = .refused .noSuchCounter) ∧
  (∃ t, exec (.lpFeedn [0xAA, 0x01, 0x01, 0x00, 0xF1]) State.reset = .next t ∧
    t.lp.ctrFraming = 0 ∧ t.lp.ctrLength = 1 ∧ t.lp.ctrCrc = 0)

/-- R210, R262: `LP.RST` puts the parser into its reset state, clears the three counters, emits nothing and touches no
other sub-unit. -/
def Obligations.ParserResetClearsTheCounters : Prop :=
  ∀ s : State, ∃ t, exec .lpRst s = .next t ∧ t.lp.stage = .wait ∧ t.lp.idx = 0 ∧ t.lp.ctrFraming = 0 ∧
    t.lp.ctrLength = 0 ∧ t.lp.ctrCrc = 0 ∧
    t = { s with lp := t.lp, reply := { status := .ok, value := .none } }

/-- R211: garbage without a START byte, then one frame, fed to a parser in `WAIT`, yields exactly that frame and moves
no counter. The clauses before are R211's two cases of garbage that contains START: the frame is lost; the frame's
first five bytes are swallowed as payload. -/
def Obligations.NoiseBeforeAFrameIsDropped : Prop :=
  (∃ t, exec (.lpFeedn (0xAA :: linkFrameBytes 0x01 0x00 [0x10])) State.reset = .next t ∧ t.emits = []) ∧
  (∀ (type seq : Byte) (payload : List Byte), ∃ t,
    exec (.lpFeedn ([0xAA, 0x01, 0x00, 0x00, 0x05] ++ (linkFrameBytes type seq payload).take 5)) State.reset = .next t ∧
      t.lp.stage = .checksum ∧ t.lp.len = 0x05 ∧ t.lp.buf.toList.take 5 = (linkFrameBytes type seq payload).take 5) ∧
  ∀ (s : State) (garbage : List Byte) (type seq : Byte) (payload : List Byte), s.lp.stage = .wait →
    0xAA ∉ garbage → payload.length ≤ 240 →
    ∃ t, exec (.lpFeedn (garbage ++ linkFrameBytes type seq payload)) s = .next t ∧
      t.reply = { status := .ok,
                  value := .frames [{ version := 0x01, type := type, seq := seq, payload := payload }] } ∧
      t.emits = s.emits ++ [{ version := 0x01, type := type, seq := seq, payload := payload }] ∧
      t.lp.stage = .wait ∧ t.lp.ctrFraming = s.lp.ctrFraming ∧ t.lp.ctrLength = s.lp.ctrLength ∧
      t.lp.ctrCrc = s.lp.ctrCrc

/-- A LINKFRAME arriving at a parser in `WAIT` is emitted whole (R83, R190, R206), and one arriving at any parser
completes. That the row stands for an arrival is the model's choice (log entry 15). -/
def Obligations.ArrivingFrameIsEmitted : Prop :=
  ∀ (s : State) (type seq : Byte) (payload : List Byte), payload.length ≤ 240 →
    ∃ t, exec (.linkFrame type seq payload) s = .next t ∧
      exec (.lpFeedn (linkFrameBytes type seq payload)) s = .next t ∧
      (s.lp.stage = .wait →
        t.emits = s.emits ++ [{ version := 0x01, type := type, seq := seq, payload := payload }] ∧
        t.lp.stage = .wait ∧ t.lp.ctrFraming = s.lp.ctrFraming ∧ t.lp.ctrLength = s.lp.ctrLength ∧
        t.lp.ctrCrc = s.lp.ctrCrc)

/-- R212: a frame in which one payload byte, or the checksum byte, has any other value, fed to a parser in `WAIT`,
yields no frame and adds one to the crc-error counter, and only to it. -/
def Obligations.CorruptedFrameIsCountedOnce : Prop :=
  ∀ (s : State) (type seq : Byte) (payload corrupted : List Byte) (check : Byte), s.lp.stage = .wait →
    payload.length ≤ 240 →
    (let crc := crc8 ([0x01, type, seq, BitVec.ofNat 8 payload.length] ++ payload)
     (corrupted = payload ∧ check ≠ crc) ∨
     (check = crc ∧ ∃ before x y after, payload = before ++ x :: after ∧ corrupted = before ++ y :: after ∧
       x ≠ y)) →
    ∃ t, exec (.lpFeedn ([0xAA, 0x01, type, seq, BitVec.ofNat 8 payload.length] ++ corrupted ++ [check, 0x55])) s
        = .next t ∧
      t.reply = { status := .ok, value := .frames [] } ∧ t.emits = s.emits ∧ t.lp.stage = .wait ∧
      t.lp.ctrCrc = (s.lp.ctrCrc + 1) % 2 ^ s.par.ctrW ∧ t.lp.ctrFraming = s.lp.ctrFraming ∧
      t.lp.ctrLength = s.lp.ctrLength

/-- R213, one step: a frame, or a fault of any of the three kinds, is paid for by a START value: with one unit held while
the parser is outside `WAIT`, a byte brings at most the unit of a START. The faults are those that occur, so nothing
wraps; each is the increment of its own counter. -/
def Obligations.EachStartPaysForOneFrameOrFault : Prop :=
  ∀ (s : State) (b : Byte), ∃ t frames, exec (.lpFeed b) s = .next t ∧ t.emits = s.emits ++ frames ∧
    (let crc := crc8 ([s.lp.ver, s.lp.type, s.lp.seq, s.lp.len] ++ s.lp.buf.toList.take s.lp.len.toNat)
     let lengthFault := if s.lp.stage = .hdr3 ∧ 240 < b.toNat then 1 else 0
     let crcFault := if s.lp.stage = .checksum ∧ b ≠ crc then 1 else 0
     let framingFault := if s.lp.stage = .endMark ∧ b ≠ 0x55 then 1 else 0
     let outside := fun p : LinkParser => if p.stage = .wait then 0 else 1
     let start := if b = 0xAA then 1 else 0
     frames.length + framingFault + lengthFault + crcFault + outside t.lp ≤ start + outside s.lp ∧
     t.lp.ctrLength = (if lengthFault = 1 then (s.lp.ctrLength + 1) % 2 ^ s.par.ctrW else s.lp.ctrLength) ∧
     t.lp.ctrCrc = (if crcFault = 1 then (s.lp.ctrCrc + 1) % 2 ^ s.par.ctrW else s.lp.ctrCrc) ∧
     t.lp.ctrFraming = (if framingFault = 1 then (s.lp.ctrFraming + 1) % 2 ^ s.par.ctrW else s.lp.ctrFraming))

/-- R213 over a whole `LF.DEC`: the frames emitted and the three counters, as it returns them (modulo `2^CTR_W`), taken
together, never exceed the START values fed. -/
def Obligations.FramesAndFaultsBoundedByStarts : Prop :=
  ∀ (s : State) (bytes : List Byte), ∃ t frames framing length crc, exec (.lfDec bytes) s = .next t ∧
    t.reply = { status := .ok, value := .decoded frames framing length crc } ∧
    frames.length + framing + length + crc ≤ bytes.count 0xAA

/-! ## The payload vocabularies -/

/-- R111: the bytes of the four status codes. That the row is a lookup is the model's choice (log entry 16). -/
def Obligations.StatusCodesAreTheirBytes : Prop :=
  ∀ s : State,
    exec (.statusCodes .ok) s = .next { s with reply := { status := .ok, value := .byte 0x00 } } ∧
    exec (.statusCodes .error) s = .next { s with reply := { status := .ok, value := .byte 0x01 } } ∧
    exec (.statusCodes .unsupported) s = .next { s with reply := { status := .ok, value := .byte 0x02 } } ∧
    exec (.statusCodes .busy) s = .next { s with reply := { status := .ok, value := .byte 0x03 } }

/-- R110: the mapping from the twelve names to identifiers is total and injective; any other name is 'no such command'
without raising. The identifiers themselves are open. That the row is a lookup is the model's choice (log entry 16). -/
def Obligations.CommandNamesMapInjectively : Prop :=
  (∀ s : State, ∀ name ∈ ["ping", "set_rate", "set_fields", "sleep", "main_online", "wifi_connect", "status",
      "version", "reboot", "debug", "poll", "snapshot"],
    ∃ id, exec (.commandNames name) s = .next { s with reply := { status := .ok, value := .command (some id) } } ∧
      ∀ other, exec (.commandNames other) s =
        .next { s with reply := { status := .ok, value := .command (some id) } } → other = name) ∧
  (∀ s : State, ∀ name ∉ ["ping", "set_rate", "set_fields", "sleep", "main_online", "wifi_connect", "status",
      "version", "reboot", "debug", "poll", "snapshot"],
    exec (.commandNames name) s = .next { s with reply := { status := .ok, value := .command none } })
end

