-- ==== Sys2Proof/Laws/Formats.lean ====
section
/-! SUPPORT. Byte orders and port numbers: splitting a word and joining its bytes give the word back. -/

namespace Sys2Proof.Machine

theorem word16_hi_lo (w : U16) : word16 (hi w) (lo w) = w := by
  ext i hi'
  simp only [word16, hi, lo, BitVec.getElem_or, BitVec.getElem_shiftLeft, BitVec.getElem_setWidth,
    BitVec.getLsbD_extractLsb']
  by_cases h : i < 8
  · simp [h, BitVec.getLsbD_eq_getElem hi']
  · have : 8 + (i - 8) = i := by omega
    have h8 : i - 8 < 8 := by omega
    simp [h, h8, this, BitVec.getLsbD_eq_getElem hi']

theorem hi_word16 (h l : Byte) : hi (word16 h l) = h := by
  ext i hi'
  simp [word16, hi, BitVec.getElem_extractLsb', BitVec.getLsbD_eq_getElem hi', show 8 + i < 16 by omega]

theorem lo_word16 (h l : Byte) : lo (word16 h l) = l := by
  ext i hi'
  simp [word16, lo, BitVec.getElem_extractLsb', show i < 16 by omega, hi']

/-- The four bytes of a pattern join to the pattern. -/
theorem word32_le32 (v : U32) :
    word32 (v.extractLsb' 0 8) (v.extractLsb' 8 8) (v.extractLsb' 16 8) (v.extractLsb' 24 8) = v := by
  ext i hi'
  simp only [word32, BitVec.getElem_or, BitVec.getElem_shiftLeft, BitVec.getElem_setWidth,
    BitVec.getLsbD_extractLsb']
  interval_cases i <;> simp [BitVec.getLsbD_eq_getElem]

end Sys2Proof.Machine

namespace Sys2Proof

theorem putNat_length (k n : Nat) : (putNat k n).length = k := by
  induction k generalizing n with
  | zero => rfl
  | succ k ih => simp [putNat, ih]

/-- A number written in `k` bytes reads back, and the bytes behind it are left. -/
theorem takeNat_putNat (k n : Nat) (rest : List Byte) (h : n < 256 ^ k) :
    takeNat k (putNat k n ++ rest) = .ok (n, rest) := by
  induction k generalizing n with
  | zero =>
    have : n = 0 := by simpa using h
    simp [putNat, takeNat, this]
  | succ k ih =>
    have hdiv : n / 256 < 256 ^ k := by
      rw [Nat.div_lt_iff_lt_mul (by decide)]
      simpa [Nat.pow_succ] using h
    simp only [putNat, List.cons_append, takeNat, ih _ hdiv, andThen, BitVec.toNat_ofNat]
    congr 2
    omega

/-- A byte sequence written with its length reads back, and the bytes behind it are left. -/
theorem takeBytes_putBytes (bytes rest : List Byte) (h : lengthFits bytes = true) :
    takeBytes (putBytes bytes ++ rest) = .ok (bytes, rest) := by
  have hlen : bytes.length < 256 ^ 4 := by
    have := of_decide_eq_true h
    simpa using this
  simp [takeBytes, putBytes, List.append_assoc, takeNat_putNat _ _ _ hlen, andThen]

end Sys2Proof
end

