-- ==== Sys2Proof/Laws/State.lean ====
section
/-! SUPPORT. One lemma per field per update of State and of the sub-units' registers, each true by definition. -/

namespace Sys2Proof.Machine

variable (s : State)

/-! `State.succeed` -/

@[simp] theorem State.succeed_crc (v : Value) : (s.succeed v).crc = s.crc := rfl
@[simp] theorem State.succeed_mb (v : Value) : (s.succeed v).mb = s.mb := rfl
@[simp] theorem State.succeed_lp (v : Value) : (s.succeed v).lp = s.lp := rfl
@[simp] theorem State.succeed_port (v : Value) : (s.succeed v).port = s.port := rfl
@[simp] theorem State.succeed_linkTx (v : Value) : (s.succeed v).linkTx = s.linkTx := rfl
@[simp] theorem State.succeed_mbTx (v : Value) : (s.succeed v).mbTx = s.mbTx := rfl
@[simp] theorem State.succeed_emits (v : Value) : (s.succeed v).emits = s.emits := rfl
@[simp] theorem State.succeed_reply (v : Value) : (s.succeed v).reply = { status := .ok, value := v } := rfl
@[simp] theorem State.succeed_par (v : Value) : (s.succeed v).par = s.par := rfl

/-! `State.fail` -/

@[simp] theorem State.fail_crc (k : ErrKind) (v : Value) : (s.fail k v).crc = s.crc := rfl
@[simp] theorem State.fail_mb (k : ErrKind) (v : Value) : (s.fail k v).mb = s.mb := rfl
@[simp] theorem State.fail_lp (k : ErrKind) (v : Value) : (s.fail k v).lp = s.lp := rfl
@[simp] theorem State.fail_port (k : ErrKind) (v : Value) : (s.fail k v).port = s.port := rfl
@[simp] theorem State.fail_linkTx (k : ErrKind) (v : Value) : (s.fail k v).linkTx = s.linkTx := rfl
@[simp] theorem State.fail_mbTx (k : ErrKind) (v : Value) : (s.fail k v).mbTx = s.mbTx := rfl
@[simp] theorem State.fail_emits (k : ErrKind) (v : Value) : (s.fail k v).emits = s.emits := rfl
@[simp] theorem State.fail_reply (k : ErrKind) (v : Value) : (s.fail k v).reply = { status := .failed k, value := v } := rfl
@[simp] theorem State.fail_par (k : ErrKind) (v : Value) : (s.fail k v).par = s.par := rfl

/-! `State.withPort` -/

@[simp] theorem State.withPort_crc (bs : List Byte) : (s.withPort bs).crc = s.crc := rfl
@[simp] theorem State.withPort_mb (bs : List Byte) : (s.withPort bs).mb = s.mb := rfl
@[simp] theorem State.withPort_lp (bs : List Byte) : (s.withPort bs).lp = s.lp := rfl
@[simp] theorem State.withPort_port (bs : List Byte) : (s.withPort bs).port = bs := rfl
@[simp] theorem State.withPort_linkTx (bs : List Byte) : (s.withPort bs).linkTx = s.linkTx := rfl
@[simp] theorem State.withPort_mbTx (bs : List Byte) : (s.withPort bs).mbTx = s.mbTx := rfl
@[simp] theorem State.withPort_emits (bs : List Byte) : (s.withPort bs).emits = s.emits := rfl
@[simp] theorem State.withPort_reply (bs : List Byte) : (s.withPort bs).reply = s.reply := rfl
@[simp] theorem State.withPort_par (bs : List Byte) : (s.withPort bs).par = s.par := rfl

/-! `State.sendLink` -/

@[simp] theorem State.sendLink_crc (bs : List Byte) : (s.sendLink bs).crc = s.crc := rfl
@[simp] theorem State.sendLink_mb (bs : List Byte) : (s.sendLink bs).mb = s.mb := rfl
@[simp] theorem State.sendLink_lp (bs : List Byte) : (s.sendLink bs).lp = s.lp := rfl
@[simp] theorem State.sendLink_port (bs : List Byte) : (s.sendLink bs).port = s.port := rfl
@[simp] theorem State.sendLink_linkTx (bs : List Byte) : (s.sendLink bs).linkTx = s.linkTx ++ bs := rfl
@[simp] theorem State.sendLink_mbTx (bs : List Byte) : (s.sendLink bs).mbTx = s.mbTx := rfl
@[simp] theorem State.sendLink_emits (bs : List Byte) : (s.sendLink bs).emits = s.emits := rfl
@[simp] theorem State.sendLink_reply (bs : List Byte) : (s.sendLink bs).reply = s.reply := rfl
@[simp] theorem State.sendLink_par (bs : List Byte) : (s.sendLink bs).par = s.par := rfl

/-! `State.sendModbus` -/

@[simp] theorem State.sendModbus_crc (bs : List Byte) : (s.sendModbus bs).crc = s.crc := rfl
@[simp] theorem State.sendModbus_mb (bs : List Byte) : (s.sendModbus bs).mb = s.mb := rfl
@[simp] theorem State.sendModbus_lp (bs : List Byte) : (s.sendModbus bs).lp = s.lp := rfl
@[simp] theorem State.sendModbus_port (bs : List Byte) : (s.sendModbus bs).port = s.port := rfl
@[simp] theorem State.sendModbus_linkTx (bs : List Byte) : (s.sendModbus bs).linkTx = s.linkTx := rfl
@[simp] theorem State.sendModbus_mbTx (bs : List Byte) : (s.sendModbus bs).mbTx = s.mbTx ++ bs := rfl
@[simp] theorem State.sendModbus_emits (bs : List Byte) : (s.sendModbus bs).emits = s.emits := rfl
@[simp] theorem State.sendModbus_reply (bs : List Byte) : (s.sendModbus bs).reply = s.reply := rfl
@[simp] theorem State.sendModbus_par (bs : List Byte) : (s.sendModbus bs).par = s.par := rfl

/-! `State.withCrc` -/

@[simp] theorem State.withCrc_crc (u : CrcUnit) : (s.withCrc u).crc = u := rfl
@[simp] theorem State.withCrc_mb (u : CrcUnit) : (s.withCrc u).mb = s.mb := rfl
@[simp] theorem State.withCrc_lp (u : CrcUnit) : (s.withCrc u).lp = s.lp := rfl
@[simp] theorem State.withCrc_port (u : CrcUnit) : (s.withCrc u).port = s.port := rfl
@[simp] theorem State.withCrc_linkTx (u : CrcUnit) : (s.withCrc u).linkTx = s.linkTx := rfl
@[simp] theorem State.withCrc_mbTx (u : CrcUnit) : (s.withCrc u).mbTx = s.mbTx := rfl
@[simp] theorem State.withCrc_emits (u : CrcUnit) : (s.withCrc u).emits = s.emits := rfl
@[simp] theorem State.withCrc_reply (u : CrcUnit) : (s.withCrc u).reply = s.reply := rfl
@[simp] theorem State.withCrc_par (u : CrcUnit) : (s.withCrc u).par = s.par := rfl

/-! `State.withMb` -/

@[simp] theorem State.withMb_crc (m : ModbusPort) : (s.withMb m).crc = s.crc := rfl
@[simp] theorem State.withMb_mb (m : ModbusPort) : (s.withMb m).mb = m := rfl
@[simp] theorem State.withMb_lp (m : ModbusPort) : (s.withMb m).lp = s.lp := rfl
@[simp] theorem State.withMb_port (m : ModbusPort) : (s.withMb m).port = s.port := rfl
@[simp] theorem State.withMb_linkTx (m : ModbusPort) : (s.withMb m).linkTx = s.linkTx := rfl
@[simp] theorem State.withMb_mbTx (m : ModbusPort) : (s.withMb m).mbTx = s.mbTx := rfl
@[simp] theorem State.withMb_emits (m : ModbusPort) : (s.withMb m).emits = s.emits := rfl
@[simp] theorem State.withMb_reply (m : ModbusPort) : (s.withMb m).reply = s.reply := rfl
@[simp] theorem State.withMb_par (m : ModbusPort) : (s.withMb m).par = s.par := rfl

/-! `State.withLp` -/

@[simp] theorem State.withLp_crc (p : LinkParser) (fs : List Frame) : (s.withLp p fs).crc = s.crc := rfl
@[simp] theorem State.withLp_mb (p : LinkParser) (fs : List Frame) : (s.withLp p fs).mb = s.mb := rfl
@[simp] theorem State.withLp_lp (p : LinkParser) (fs : List Frame) : (s.withLp p fs).lp = p := rfl
@[simp] theorem State.withLp_port (p : LinkParser) (fs : List Frame) : (s.withLp p fs).port = s.port := rfl
@[simp] theorem State.withLp_linkTx (p : LinkParser) (fs : List Frame) : (s.withLp p fs).linkTx = s.linkTx := rfl
@[simp] theorem State.withLp_mbTx (p : LinkParser) (fs : List Frame) : (s.withLp p fs).mbTx = s.mbTx := rfl
@[simp] theorem State.withLp_emits (p : LinkParser) (fs : List Frame) : (s.withLp p fs).emits = s.emits ++ fs := rfl
@[simp] theorem State.withLp_reply (p : LinkParser) (fs : List Frame) : (s.withLp p fs).reply = s.reply := rfl
@[simp] theorem State.withLp_par (p : LinkParser) (fs : List Frame) : (s.withLp p fs).par = s.par := rfl

/-! `ModbusPort.start` -/

@[simp] theorem ModbusPort.start_state (m : ModbusPort) (slave : Byte) (count : U16) : (m.start slave count).state = .recv := rfl
@[simp] theorem ModbusPort.start_slave (m : ModbusPort) (slave : Byte) (count : U16) : (m.start slave count).slave = slave := rfl
@[simp] theorem ModbusPort.start_count (m : ModbusPort) (slave : Byte) (count : U16) : (m.start slave count).count = count := rfl
@[simp] theorem ModbusPort.start_need (m : ModbusPort) (slave : Byte) (count : U16) : (m.start slave count).need = 3 + 2 * count.toNat + 2 := rfl
@[simp] theorem ModbusPort.start_cnt (m : ModbusPort) (slave : Byte) (count : U16) : (m.start slave count).cnt = 0 := rfl
@[simp] theorem ModbusPort.start_buf (m : ModbusPort) (slave : Byte) (count : U16) : (m.start slave count).buf = [] := rfl
@[simp] theorem ModbusPort.start_draws (m : ModbusPort) (slave : Byte) (count : U16) : (m.start slave count).draws = m.draws + 1 := rfl

/-! `ModbusPort.push` -/

@[simp] theorem ModbusPort.push_state (m : ModbusPort) (b : Byte) : (m.push b).state = m.state := rfl
@[simp] theorem ModbusPort.push_slave (m : ModbusPort) (b : Byte) : (m.push b).slave = m.slave := rfl
@[simp] theorem ModbusPort.push_count (m : ModbusPort) (b : Byte) : (m.push b).count = m.count := rfl
@[simp] theorem ModbusPort.push_need (m : ModbusPort) (b : Byte) : (m.push b).need = m.need := rfl
@[simp] theorem ModbusPort.push_cnt (m : ModbusPort) (b : Byte) : (m.push b).cnt = m.cnt + 1 := rfl
@[simp] theorem ModbusPort.push_buf (m : ModbusPort) (b : Byte) : (m.push b).buf = m.buf ++ [b] := rfl
@[simp] theorem ModbusPort.push_draws (m : ModbusPort) (b : Byte) : (m.push b).draws = m.draws := rfl

/-! `ModbusPort.finish` -/

@[simp] theorem ModbusPort.finish_state (m : ModbusPort) : (m.finish).state = .idle := rfl
@[simp] theorem ModbusPort.finish_draws (m : ModbusPort) : (m.finish).draws = m.draws + 1 := rfl

/-! `LinkParser.frameReset` -/

@[simp] theorem LinkParser.frameReset_stage (p : LinkParser) : (p.frameReset).stage = .wait := rfl
@[simp] theorem LinkParser.frameReset_idx (p : LinkParser) : (p.frameReset).idx = 0 := rfl
@[simp] theorem LinkParser.frameReset_ctrFraming (p : LinkParser) : (p.frameReset).ctrFraming = p.ctrFraming := rfl
@[simp] theorem LinkParser.frameReset_ctrLength (p : LinkParser) : (p.frameReset).ctrLength = p.ctrLength := rfl
@[simp] theorem LinkParser.frameReset_ctrCrc (p : LinkParser) : (p.frameReset).ctrCrc = p.ctrCrc := rfl
@[simp] theorem LinkParser.frameReset_draws (p : LinkParser) : (p.frameReset).draws = p.draws + 1 := rfl

/-! `LinkParser.clear` -/

@[simp] theorem LinkParser.clear_stage (p : LinkParser) : (p.clear).stage = .wait := rfl
@[simp] theorem LinkParser.clear_idx (p : LinkParser) : (p.clear).idx = 0 := rfl
@[simp] theorem LinkParser.clear_ctrFraming (p : LinkParser) : (p.clear).ctrFraming = 0 := rfl
@[simp] theorem LinkParser.clear_ctrLength (p : LinkParser) : (p.clear).ctrLength = 0 := rfl
@[simp] theorem LinkParser.clear_ctrCrc (p : LinkParser) : (p.clear).ctrCrc = 0 := rfl
@[simp] theorem LinkParser.clear_draws (p : LinkParser) : (p.clear).draws = p.draws + 1 := rfl

end Sys2Proof.Machine
end

