-- ==== Sys2Proof/Laws/Ops.lean ====
section
/-! SUPPORT. What each shared operation can do, said once: cite these instead of unfolding the operation. -/

namespace Sys2Proof.Machine

/-! ## Preconditions -/

/-- A guarded request completes only in IDLE and with `count` in bounds, and then runs. -/
theorem guardRequest_next {count : U16} {run : State → State} {s t : State}
    (h : guardRequest count run s = .next t) :
    s.mb.state = .idle ∧ count.toNat ≤ s.par.mbCountMax ∧ t = run s := by
  unfold guardRequest at h
  split at h
  · cases h
  · rename_i hidle
    split at h
    · cases h
    · rename_i hmax
      cases h
      refine ⟨?_, by omega, rfl⟩
      cases hs : s.mb.state with
      | idle => rfl
      | recv => exact absurd hs hidle

/-- In IDLE and with `count` in bounds a guarded request runs. -/
theorem guardRequest_of_idle {count : U16} {run : State → State} {s : State} (hidle : s.mb.state = .idle)
    (hmax : count.toNat ≤ s.par.mbCountMax) : guardRequest count run s = .next (run s) := by
  have hnot : ¬ s.par.mbCountMax < count.toNat := by omega
  simp [guardRequest, hidle, hnot]

/-- A guarded mask operation completes only with every mask bit below `N_FIELDS`, and then runs. -/
theorem guardMask_next {mask : Nat} {run : State → State} {s t : State} (h : guardMask mask run s = .next t) :
    mask < 2 ^ s.par.nFields ∧ t = run s := by
  unfold guardMask at h
  split at h
  · cases h
  · cases h
    exact ⟨by omega, rfl⟩

/-- With every mask bit below `N_FIELDS` a guarded mask operation runs. -/
theorem guardMask_of_lt {mask : Nat} {run : State → State} {s : State} (h : mask < 2 ^ s.par.nFields) :
    guardMask mask run s = .next (run s) := by
  have hnot : ¬ 2 ^ s.par.nFields ≤ mask := by omega
  simp [guardMask, hnot]

/-! ## The Modbus codec -/

/-- A request either starts a transaction and sends the whole ADU, or fails and sends a part of it. -/
theorem sendRequest_cases (slave : Byte) (addr count : U16) (s : State) :
    (Config.writeFails s.mb.draws = false ∧ sendRequest slave addr count s =
        ((s.sendModbus (requestAdu slave addr count)).withMb (s.mb.start slave count)).succeed .none) ∨
    (Config.writeFails s.mb.draws = true ∧ sendRequest slave addr count s =
        ((s.sendModbus ((requestAdu slave addr count).take (Config.writtenBytes s.mb.draws))).withMb
          { s.mb with draws := s.mb.draws + 1 }).fail .errWrite .none) := by
  cases h : Config.writeFails s.mb.draws with
  | false => exact .inl ⟨rfl, by simp [sendRequest, h]⟩
  | true => exact .inr ⟨rfl, by simp [sendRequest, h]⟩

/-- `MB.RXB` completes only while bytes are missing, and then accumulates its byte. -/
theorem offerByte_next {b : Byte} {s t : State} (h : offerByte b s = .next t) :
    s.mb.state = .recv ∧ s.mb.cnt ≠ s.mb.need ∧ t = receiveByte b s := by
  unfold offerByte at h
  split at h
  · cases h
  · rename_i hen
    cases h
    refine ⟨?_, fun hc => hen (.inr hc), rfl⟩
    cases hs : s.mb.state with
    | idle => exact absurd (.inl hs) hen
    | recv => rfl

/-- While bytes are missing `MB.RXB` accumulates its byte. -/
theorem offerByte_of_recv {b : Byte} {s : State} (hrecv : s.mb.state = .recv) (hcnt : s.mb.cnt ≠ s.mb.need) :
    offerByte b s = .next (receiveByte b s) := by
  simp [offerByte, hrecv, hcnt]

/-- Bytes arriving in RECV are taken up to the expected length, and in IDLE none is; the others stay in the stream. -/
theorem receiveBytes_eq (bytes : List Byte) (s : State) (hcnt : s.mb.cnt ≤ s.mb.need) :
    let room := if s.mb.state = .recv then s.mb.need - s.mb.cnt else 0
    ∃ r, receiveBytes bytes s =
      ({ s with mb := { s.mb with buf := s.mb.buf ++ bytes.take room, cnt := s.mb.cnt + (bytes.take room).length },
                reply := r }, bytes.drop room) := by
  induction bytes generalizing s with
  | nil => exact ⟨s.reply, by simp [receiveBytes]⟩
  | cons b bytes ih =>
    by_cases hstop : s.mb.state = .idle ∨ s.mb.cnt = s.mb.need
    · have hroom : (if s.mb.state = .recv then s.mb.need - s.mb.cnt else 0) = 0 := by
        rcases hstop with h | h <;> simp [h]
      exact ⟨s.reply, by simp only [receiveBytes, if_pos hstop, hroom]; simp⟩
    · have hfull : s.mb.cnt ≠ s.mb.need := fun h => hstop (.inr h)
      cases hst : s.mb.state with
      | idle => exact absurd (.inl hst) hstop
      | recv =>
        obtain ⟨k, hk⟩ : ∃ k, s.mb.need - s.mb.cnt = k + 1 := ⟨s.mb.need - s.mb.cnt - 1, by omega⟩
        obtain ⟨r, hr⟩ := ih (receiveByte b s) (by simp [receiveByte, ModbusPort.push]; omega)
        refine ⟨r, ?_⟩
        have hk' : s.mb.need - (s.mb.cnt + 1) = k := by omega
        simp only [receiveBytes, if_neg hstop, hr]
        simp [receiveByte, ModbusPort.push, State.succeed, State.withMb, hst, hk, hk', Nat.add_assoc, Nat.add_comm]

/-- A transaction that ends leaves its registers in their ranges. -/
theorem ModbusPort.finish_sound (m : ModbusPort) : ModbusSound m.finish := by
  refine ⟨rfl, ?_, ?_, ?_, fun h => by cases h⟩
  · exact List.length_take_le _ _
  · exact Nat.le_add_right _ _
  · have := Nat.mod_lt (Config.staleNeed m.draws) (show 0 < 131071 by decide)
    simp only [ModbusPort.finish]
    omega

/-- A verdict is a validation failure, or every validation passed and the words are delivered. -/
theorem verdict_cases (s : State) :
    (∃ kind, validate s.mb = some kind ∧ verdict s = (s.withMb s.mb.finish).fail kind .none) ∨
    (validate s.mb = none ∧ verdict s = (s.withMb s.mb.finish).succeed (.words (responseWords s.mb))) := by
  cases h : validate s.mb with
  | none => exact .inr ⟨rfl, by simp [verdict, h]⟩
  | some kind => exact .inl ⟨kind, rfl, by simp [verdict, h]⟩

/-- The response's words are as many as the request asked for. -/
theorem responseWords_length (m : ModbusPort) : (responseWords m).length = m.count.toNat := by
  simp [responseWords]

/-! ## The LinkParser -/

/-- A counter of `w` bits stays one when it is incremented. -/
theorem bump_lt (w n : Nat) : bump w n < 2 ^ w := Nat.mod_lt _ (Nat.two_pow_pos w)

/-- A parser emits only in stage `END` on the END byte, and then the one frame it holds. -/
theorem LinkParser.emitted_cases (p : LinkParser) (b : Byte) :
    (p.stage = .endMark ∧ b = Config.endByte ∧ p.emitted b = [p.frame]) ∨ p.emitted b = [] := by
  by_cases h : p.stage = .endMark ∧ b = Config.endByte
  · exact .inl ⟨h.1, h.2, by rw [LinkParser.emitted, if_pos h]⟩
  · exact .inr (by rw [LinkParser.emitted, if_neg h])

/-- Feeding two batches one after the other is feeding their concatenation. -/
theorem LinkParser.feedAll_append (w : Nat) (p : LinkParser) (a b : List Byte) :
    p.feedAll w (a ++ b) = (p.feedAll w a).feedAll w b := by
  induction a generalizing p with
  | nil => rfl
  | cons x a ih => exact ih _

/-- The frames of two batches one after the other are those of their concatenation. -/
theorem LinkParser.emittedAll_append (w : Nat) (p : LinkParser) (a b : List Byte) :
    p.emittedAll w (a ++ b) = p.emittedAll w a ++ (p.feedAll w a).emittedAll w b := by
  induction a generalizing p with
  | nil => rfl
  | cons x a ih =>
    simp only [List.cons_append, LinkParser.emittedAll, LinkParser.feedAll, ih, List.append_assoc]

/-! ## Runs -/

/-- A run of two lists is a run of the first and then of the second. -/
theorem execAll_append {is js : List Instr} {s t : State} (h : execAll is s = .next t) :
    execAll (is ++ js) s = execAll js t := by
  induction is generalizing s with
  | nil => cases h; rfl
  | cons i is ih =>
    simp only [execAll, List.cons_append] at h ⊢
    cases hi : exec i s with
    | next u => rw [hi] at h; exact ih h
    | fault r => nomatch r
    | refused r => rw [hi] at h; cases h

end Sys2Proof.Machine
end

