-- ==== Sys2Proof/Laws/PerInstr.lean ====
section
/-! SUPPORT. A statement about every instruction, one lemma per constructor: an instruction that has an operation code
(spec/30_encoding.md R81) is written with that code first. -/

namespace Sys2Proof.Laws.CodeFirst

/-- Where the instruction has a code, its bytes begin with it. -/
def Statement (i : Instr) : Prop :=
  ∀ (op : Byte) (n : Nat) (nan : U32), opCode i = some op → (encode n nan i).head? = some op

theorem crc8Clr : Statement (.crc8Clr) := fun _ _ _ h => h
theorem crc8Upd (b : Byte) : Statement (.crc8Upd b) := fun _ _ _ h => h
theorem crc8Rd : Statement (.crc8Rd) := fun _ _ _ h => h
theorem crc16Clr : Statement (.crc16Clr) := fun _ _ _ h => h
theorem crc16Upd (b : Byte) : Statement (.crc16Upd b) := fun _ _ _ h => h
theorem crc16Rd : Statement (.crc16Rd) := fun _ _ _ h => h
theorem mbReq (slave : Byte) (addr count : U16) : Statement (.mbReq slave addr count) := fun _ _ _ h => h
theorem mbRxb (b : Byte) : Statement (.mbRxb b) := fun _ _ _ h => h
theorem mbTmo : Statement (.mbTmo) := fun _ _ _ h => h
theorem mbChk : Statement (.mbChk) := fun _ _ _ h => h
theorem lfEnc (type seq : Byte) (payload : List Byte) : Statement (.lfEnc type seq payload) := fun _ _ _ h => h
theorem fbPack (mask : Nat) (vals : List U32) (present : List Bool) : Statement (.fbPack mask vals present) := fun _ _ _ h => h
theorem fbUnpack (mask : Nat) (bytes : List Byte) : Statement (.fbUnpack mask bytes) := fun _ _ _ h => h
theorem lpFeed (b : Byte) : Statement (.lpFeed b) := fun _ _ _ h => h
theorem lpRdc (n : Nat) : Statement (.lpRdc n) := fun _ _ _ h => h
theorem lpRst : Statement (.lpRst) := fun _ _ _ h => h
theorem mbRead (slave : Byte) (addr count : U16) (rx : List Byte) : Statement (.mbRead slave addr count rx) := fun _ _ _ h => nomatch h
theorem lpFeedn (bytes : List Byte) : Statement (.lpFeedn bytes) := fun _ _ _ h => nomatch h
theorem lfDec (bytes : List Byte) : Statement (.lfDec bytes) := fun _ _ _ h => nomatch h
theorem linkFrame (type seq : Byte) (payload : List Byte) : Statement (.linkFrame type seq payload) := fun _ _ _ h => nomatch h
theorem mbReqAdu (slave : Byte) (addr count : U16) : Statement (.mbReqAdu slave addr count) := fun _ _ _ h => nomatch h
theorem mbRspAdu (slave : Byte) (words : List U16) : Statement (.mbRspAdu slave words) := fun _ _ _ h => nomatch h
theorem fieldBlock (mask : Nat) (vals : List U32) (present : List Bool) : Statement (.fieldBlock mask vals present) := fun _ _ _ h => nomatch h
theorem statusCodes (code : StatusCode) : Statement (.statusCodes code) := fun _ _ _ h => nomatch h
theorem commandNames (name : String) : Statement (.commandNames name) := fun _ _ _ h => nomatch h

end Sys2Proof.Laws.CodeFirst
end

