-- ==== Sys2Proof/Tests/Slice0.lean ====
section
/-! SUPPORT. Tests. Expected values are those of spec/95_test_vectors.md (named in each comment), of the examples in the rules,
or worked out by hand from the layouts. A test of an operation checks one step on a small state. -/

set_option Elab.async false

namespace Sys2Proof.Tests

open Sys2Proof.Machine

/-! ## Helpers -/

/-- A part of the next state of an outcome. -/
def after {α : Type} (f : State → α) : Outcome → Option α
  | .next s => some (f s)
  | .fault _ => none
  | .refused _ => none

/-- Why an outcome is refused. -/
def refusal : Outcome → Option Refusal
  | .refused r => some r
  | .next _ => none
  | .fault _ => none

/-- A state in which a response of `count` words is awaited from slave 1, with these bytes received. -/
def receiving (count : U16) (bytes : List Byte) : State :=
  { State.reset with
    mb := { state := .recv, slave := 1, count := count, need := 5 + 2 * count.toNat, cnt := bytes.length, buf := bytes,
            draws := 0 } }

/-- A state with `n` fields (part 2.6 of the vectors has 3). -/
def withFields (n : Nat) : State := { State.reset with par := { Config.defaultParams with nFields := n } }

/-- A state with the parser in a stage, after a header for the payload of frame LF2 (type 1, seq 0, length 1). -/
def parsing (stage : Stage) (idx : Nat) (payload : Byte) : State :=
  { State.reset with
    lp := { State.reset.lp with
            stage := stage, ver := 1, type := 1, seq := 0, len := 1, idx := idx,
            buf := Vector.replicate 240 payload } }

/-- The three field values of part 2.6 of the vectors. -/
def threeValues : List U32 := [0x42280000, 0x453B8000, 0x42120000]

/-! ## Ill-formed terms are refused by the check -/

theorem test_wf_mask_fits : maskFits (2 ^ 64) = false := by decide
theorem test_wf_field_lists_differ : fieldListsFit [0] [] = false := by decide
theorem test_wf_field_lists_long : fieldListsFit (List.replicate 61 0) (List.replicate 61 true) = false := by
  decide +kernel
theorem test_wf_encoder_payload_too_long (p : List Byte) (h : p.length = 2 ^ 32) : wellFormed (.lfEnc 0 0 p) = false := by
  simp [wellFormed, lengthFits, h]
theorem test_wf_pack_mask : wellFormed (.fbPack (2 ^ 64) [] []) = false := by decide
theorem test_wf_pack_lists : wellFormed (.fbPack 0 [0] []) = false := by decide
theorem test_wf_unpack_mask : wellFormed (.fbUnpack (2 ^ 64) []) = false := by decide
theorem test_wf_unpack_block_too_long (p : List Byte) (h : p.length = 2 ^ 32) : wellFormed (.fbUnpack 0 p) = false := by
  simp [wellFormed, lengthFits, h]
theorem test_wf_counter_number : wellFormed (.lpRdc 256) = false := by decide
theorem test_wf_read_too_many_bytes : wellFormed (.mbRead 1 0 0 [0, 0, 0, 0, 0, 0]) = false := by decide
theorem test_wf_frame_payload : wellFormed (.linkFrame 0 0 (List.replicate 241 0)) = false := by decide +kernel
theorem test_wf_response_words : wellFormed (.mbRspAdu 0 (List.replicate 128 0)) = false := by decide +kernel
theorem test_wf_block_lists : wellFormed (.fieldBlock 0 [] [true]) = false := by decide
theorem test_wf_block_mask : wellFormed (.fieldBlock (2 ^ 64) [] []) = false := by decide
theorem test_wf_command_name : wellFormed (.commandNames "reset") = false := by decide

/-! ## Decoding: words written out from the encodings -/

theorem test_decode_crc8Clr : decode [0x10] = .ok (.crc8Clr, []) := by rfl
theorem test_decode_crc8Upd : decode [0x11, 0xA5] = .ok (.crc8Upd 0xA5, []) := by rfl
theorem test_decode_crc8Rd : decode [0x12] = .ok (.crc8Rd, []) := by rfl
theorem test_decode_crc16Clr : decode [0x20] = .ok (.crc16Clr, []) := by rfl
theorem test_decode_crc16Upd : decode [0x21, 0x5A, 0x20] = .ok (.crc16Upd 0x5A, [0x20]) := by rfl
theorem test_decode_crc16Rd : decode [0x22] = .ok (.crc16Rd, []) := by rfl
theorem test_decode_mbReq : decode [0x30, 0x11, 0x6B, 0x00, 0x03, 0x00] = .ok (.mbReq 0x11 0x006B 3, []) := by rfl
theorem test_decode_mbRxb : decode [0x31, 0xC3] = .ok (.mbRxb 0xC3, []) := by rfl
theorem test_decode_mbTmo : decode [0x32] = .ok (.mbTmo, []) := by rfl
theorem test_decode_mbChk : decode [0x33] = .ok (.mbChk, []) := by rfl
theorem test_decode_lfEnc : decode [0x40, 0x02, 0xFF, 2, 0, 0, 0, 0xAA, 0x55] = .ok (.lfEnc 0x02 0xFF [0xAA, 0x55], []) := by
  rfl
theorem test_decode_fbPack :
    decode [0x41, 5, 0, 0, 0, 0, 0, 0, 0x80, 2, 1, 0x00, 0x00, 0x28, 0x42, 0, 0x00, 0x80, 0x3B, 0x45] =
      .ok (.fbPack (2 ^ 63 + 5) [0x42280000, 0x453B8000] [true, false], []) := by rfl
theorem test_decode_fbUnpack :
    decode [0x42, 1, 0, 0, 0, 0, 0, 0, 0, 4, 0, 0, 0, 0x00, 0x00, 0x28, 0x42] =
      .ok (.fbUnpack 1 [0x00, 0x00, 0x28, 0x42], []) := by rfl
theorem test_decode_lpFeed : decode [0x50, 0xAA] = .ok (.lpFeed 0xAA, []) := by rfl
theorem test_decode_lpRdc : decode [0x51, 2] = .ok (.lpRdc 2, []) := by rfl
theorem test_decode_lpRst : decode [0x52] = .ok (.lpRst, []) := by rfl
theorem test_decode_unlisted : decode [0x13] = .error (.unknownOp 0x13) := by rfl
theorem test_decode_truncated : decode [0x30, 0x11, 0x6B] = .error .truncated := by rfl
theorem test_decode_flag : decode [0x41, 0, 0, 0, 0, 0, 0, 0, 0, 1, 2, 0, 0, 0, 0] = .error (.badFlag 2) := by rfl
theorem test_decode_nothing : decode [] = .error .noOperation := by rfl

/-- R106: the expansions, as they stand at the port. -/
theorem test_encode_mbRead :
    encode 60 0 (.mbRead 1 0x0010 0 [0x01, 0x03]) =
      [0x30, 1, 0x10, 0x00, 0, 0, 0x31, 0x01, 0x31, 0x03, 0x32] := by decide +kernel
theorem test_encode_lpFeedn : encode 60 0 (.lpFeedn [0xAA, 0x01]) = [0x50, 0xAA, 0x50, 0x01] := by decide +kernel
theorem test_encode_lfDec : encode 60 0 (.lfDec [0xAA]) = [0x52, 0x50, 0xAA] := by decide +kernel

/-- Vector LF3, read as a LINKFRAME. -/
theorem test_decode_linkFrame :
    decodeLinkFrame [0xAA, 0x01, 0x02, 0xFF, 0x02, 0xAA, 0x55, 0x01, 0x55] = .ok (.linkFrame 0x02 0xFF [0xAA, 0x55], []) := by
  decide +kernel
/-- Vector MB3, read as an MB_REQ_ADU. -/
theorem test_decode_mbReqAdu :
    decodeRequestAdu [0x11, 0x03, 0x00, 0x6B, 0x00, 0x03, 0x76, 0x87] = .ok (.mbReqAdu 0x11 0x006B 3, []) := by
  decide +kernel
/-- Vector MB22, read as an MB_RSP_ADU. -/
theorem test_decode_mbRspAdu :
    decodeResponseAdu [0x01, 0x03, 0x04, 0x10, 0x68, 0xFF, 0xFF, 0x7E, 0x9F] = .ok (.mbRspAdu 1 [0x1068, 0xFFFF], []) := by
  decide +kernel
/-- Vector FB3, read as a FIELD_BLOCK of mask 0b010. -/
theorem test_decode_fieldBlock :
    decodeFieldBlock 3 2 [0x00, 0x80, 0x3B, 0x45] = some (.fieldBlock 2 [0, 0x453B8000, 0] [false, true, false]) := by
  decide +kernel
theorem test_decode_statusCodes : decodeStatus 0x03 = some (.statusCodes .busy) := by decide
theorem test_decode_commandNames : decodeCommand (commandId .ping) = some (.commandNames "ping") := by
  simp [decodeCommand, commandTable]

/-- A table word reaches the step: the first operation after reset. -/
theorem test_table_word : decodeTableWord 8 0x12 = some .crc8Rd := by decide +kernel
theorem test_fetch_word : after (·.crc.c8) (step (State.reset.withFetchWord 16 0x0111)) = some 0x31 := by decide +kernel

/-! ## The CRC unit -/

/-- Vector C8-11. -/
theorem test_crc8_check_value : crc8 [0x31, 0x32, 0x33, 0x34, 0x35, 0x36, 0x37, 0x38, 0x39] = 0xA2 := by decide +kernel
/-- Vector C16-9. -/
theorem test_crc16_check_value : crc16 [0x31, 0x32, 0x33, 0x34, 0x35, 0x36, 0x37, 0x38, 0x39] = 0x4B37 := by
  decide +kernel
theorem test_crc8Clr : after (·.crc) (exec .crc8Clr { State.reset with crc := ⟨0xBD, 0x1234⟩ }) = some ⟨0x00, 0x1234⟩ := by
  decide +kernel
theorem test_crc8Upd : after (·.crc) (exec (.crc8Upd 0x01) { State.reset with crc := ⟨0x31, 0x1234⟩ }) =
    some ⟨0xC5, 0x1234⟩ := by decide +kernel
theorem test_crc8Rd : after (·.reply) (exec .crc8Rd { State.reset with crc := ⟨0xFF, 0⟩ }) =
    some ⟨.ok, .byte 0xFF⟩ := by decide +kernel
theorem test_crc16Clr : after (·.crc) (exec .crc16Clr { State.reset with crc := ⟨0xBD, 0x1234⟩ }) =
    some ⟨0xBD, 0xFFFF⟩ := by decide +kernel
theorem test_crc16Upd : after (·.crc) (exec (.crc16Upd 0x03) { State.reset with crc := ⟨0xBD, 0x807E⟩ }) =
    some ⟨0xBD, 0x2140⟩ := by decide +kernel
theorem test_crc16Rd : after (·.reply) (exec .crc16Rd State.reset) = some ⟨.ok, .word 0xFFFF⟩ := by decide +kernel

/-! ## The Modbus codec -/

/-- Vector MB5. -/
theorem test_request_adu : requestAdu 1 0x1234 125 = [0x01, 0x03, 0x12, 0x34, 0x00, 0x7D, 0xC1, 0x5D] := by
  decide +kernel
/-- Vector MB8. -/
theorem test_mbReq_in_flight : refusal (exec (.mbReq 1 0x10 1) (receiving 1 [])) = some .transactionInFlight := by
  decide +kernel
theorem test_mbRxb : after (·.mb.buf) (exec (.mbRxb 0x83) (receiving 1 [0x01])) = some [0x01, 0x83] := by decide +kernel
/-- Vector MB26. -/
theorem test_mbRxb_complete :
    refusal (exec (.mbRxb 0) (receiving 1 [0x01, 0x03, 0x02, 0x10, 0x68, 0xB4, 0x6A])) = some .receiveNotEnabled := by
  decide +kernel
/-- Vector MB21. -/
theorem test_mbTmo : after (·.reply) (exec .mbTmo (receiving 1 [0x01, 0x83, 0x02, 0xC0, 0xF1])) =
    some ⟨.failed .errTimeout, .received 5⟩ := by decide +kernel
/-- Vector MB27. -/
theorem test_mbTmo_complete :
    refusal (exec .mbTmo (receiving 1 [0x01, 0x03, 0x02, 0x10, 0x68, 0xB4, 0x6A])) = some .timeoutNotEnabled := by
  decide +kernel
/-- Vector MB22. -/
theorem test_mbChk_words :
    after (·.reply) (exec .mbChk (receiving 2 [0x01, 0x03, 0x04, 0x10, 0x68, 0xFF, 0xFF, 0x7E, 0x9F])) =
      some ⟨.ok, .words [0x1068, 0xFFFF]⟩ := by decide +kernel
/-- Vector MB18: the address is checked before the length. -/
theorem test_mbChk_order :
    after (·.reply.status) (exec .mbChk (receiving 1 [0x02, 0x04, 0x04, 0x10, 0x68, 0x11, 0x1F])) =
      some (.failed .errAddrFunc) := by decide +kernel
/-- The whole call is refused where its request is. -/
theorem test_mbRead_in_flight : refusal (exec (.mbRead 1 0x10 1 []) (receiving 1 [])) = some .transactionInFlight := by
  decide +kernel
/-- R146: what does not fit stays in the stream. -/
theorem test_mbRspAdu_stays : after (fun s => (s.mb.buf, s.reply)) (exec (.mbRspAdu 1 [0x1068]) (receiving 0 [])) =
    some ([0x01, 0x03, 0x02, 0x10, 0x68], ⟨.ok, .bytes [0xB4, 0x6A]⟩) := by decide +kernel
theorem test_mbReqAdu_in_flight : refusal (exec (.mbReqAdu 1 0x10 1) (receiving 1 [])) = some .transactionInFlight := by
  decide +kernel
/-- Vector MB10's response. -/
theorem test_mbRspAdu : after (·.mb.buf) (exec (.mbRspAdu 1 [0x1068]) (receiving 1 [])) =
    some [0x01, 0x03, 0x02, 0x10, 0x68, 0xB4, 0x6A] := by decide +kernel

/-! ## The LinkFrame encoder and the field block -/

/-- Vector LF5. -/
theorem test_lfEnc : after (·.linkTx) (exec (.lfEnc 0xFF 0xFF [0xFF]) State.reset) =
    some [0xAA, 0x01, 0xFF, 0xFF, 0x01, 0xFF, 0x17, 0x55] := by decide +kernel
/-- Vector LF10. -/
theorem test_lfEnc_too_long : after (fun s => (s.linkTx, s.reply.status))
    (exec (.lfEnc 0x01 0x05 (List.replicate 241 0)) State.reset) = some ([], .failed .errPayloadLen) := by decide +kernel
/-- Vector FB9. -/
theorem test_fbPack : after (·.reply) (exec (.fbPack 7 threeValues [true, false, true]) (withFields 3)) =
    some ⟨.ok, .bytes [0x00, 0x00, 0x28, 0x42, 0x00, 0x00, 0xC0, 0x7F, 0x00, 0x00, 0x12, 0x42]⟩ := by decide +kernel
/-- Vector FB11. -/
theorem test_fbPack_wide : refusal (exec (.fbPack 8 threeValues [true, true, true]) (withFields 3)) =
    some .maskTooWide := by decide +kernel
/-- Part 2.6: a signalling NaN counts as absent. -/
theorem test_fbUnpack : after (·.reply) (exec (.fbUnpack 1 [0x01, 0x00, 0x80, 0x7F]) (withFields 3)) =
    some ⟨.ok, .fields [⟨0, 0x7F800001, true⟩]⟩ := by decide +kernel
/-- Part 2.6: four bytes where eight are expected. -/
theorem test_fbUnpack_length : after (·.reply.status) (exec (.fbUnpack 3 [0x00, 0x00, 0x28, 0x42]) (withFields 3)) =
    some (.failed .errFbLen) := by decide +kernel
/-- Vector FB10: an absent field that is not selected. -/
theorem test_fieldBlock : after (·.reply) (exec (.fieldBlock 5 threeValues [true, false, true]) (withFields 3)) =
    some ⟨.ok, .bytes [0x00, 0x00, 0x28, 0x42, 0x00, 0x00, 0x12, 0x42]⟩ := by decide +kernel

/-! ## The LinkParser -/

/-- The END byte of frame LF2. -/
theorem test_lpFeed_emits : after (fun s => (s.emits, s.lp.stage)) (exec (.lpFeed 0x55) (parsing .endMark 1 0x10)) =
    some ([⟨1, 1, 0, [0x10]⟩], .wait) := by decide +kernel
/-- The checksum byte of frame LF2 is 0xFF. -/
theorem test_lpFeed_checksum : after (fun s => (s.lp.stage, s.lp.ctrCrc)) (exec (.lpFeed 0xFE) (parsing .checksum 1 0x10)) =
    some (.wait, 1) := by decide +kernel
/-- Vector LP8: length 241. -/
theorem test_lpFeedn_length_error : after (fun s => (s.emits, s.lp.stage, s.lp.ctrLength))
    (exec (.lpFeedn [0xAA, 0x01, 0x01, 0x00, 0xF1, 0x55]) State.reset) = some ([], .wait, 1) := by decide +kernel
/-- Vector LP3. -/
theorem test_lfDec : after (·.reply) (exec (.lfDec [0xAA, 0x01, 0x01, 0x00, 0x00, 0xDD, 0x55]) (parsing .payload 0 0)) =
    some ⟨.ok, .decoded [⟨1, 1, 0, []⟩] 0 0 0⟩ := by decide +kernel
/-- Vector LP10: a stray START loses the frame. -/
theorem test_lfDec_stray_start : after (·.reply) (exec (.lfDec [0xAA, 0xAA, 0x01, 0x01, 0x00, 0x00, 0xDD, 0x55]) State.reset) =
    some ⟨.ok, .decoded [] 0 0 0⟩ := by decide +kernel
theorem test_lpRdc : after (·.reply) (exec (.lpRdc 1) { State.reset with lp := { State.reset.lp with ctrLength := 7 } }) =
    some ⟨.ok, .counter 7⟩ := by decide +kernel
theorem test_lpRdc_unknown : refusal (exec (.lpRdc 3) State.reset) = some .noSuchCounter := by decide +kernel
theorem test_lpRst : after (fun s => (s.lp.stage, s.lp.idx, s.lp.ctrCrc))
    (exec .lpRst { State.reset with lp := { State.reset.lp with stage := .payload, idx := 9, ctrCrc := 3 } }) =
    some (.wait, 0, 0) := by decide +kernel
/-- Vector LF2 arriving. -/
theorem test_linkFrame : after (·.emits) (exec (.linkFrame 1 0 [0x10]) State.reset) = some [⟨1, 1, 0, [0x10]⟩] := by
  decide +kernel
/-- Part 2.7: with `CTR_W = 2` the fourth crc error wraps the counter to 0. -/
theorem test_counter_wraps : bump 2 (bump 2 (bump 2 (bump 2 0))) = 0 := by decide

/-! ## The payload vocabularies -/

theorem test_statusCodes : after (·.reply) (exec (.statusCodes .unsupported) State.reset) = some ⟨.ok, .byte 0x02⟩ := by
  decide +kernel
theorem test_commandNames_unknown : after (·.reply) (exec (.commandNames "halt") State.reset) =
    some ⟨.ok, .command none⟩ := by decide +kernel

/-! ## Every hypothesis can be met -/

/-- The two-byte-word response of vector MB10 and its expected length. -/
theorem witness_response : responseAdu 1 [0x1068] = [0x01, 0x03, 0x02, 0x10, 0x68, 0xB4, 0x6A] := by decide +kernel

theorem witness_OperationsReadBackFromThePort :
    (opCode (.lpRdc 255)).isSome = true ∧ wellFormed (.lpRdc 255) = true := by decide
theorem witness_UnlistedCodesAndCountersAreRefused :
    (State.reset.withPort [0x53]).port = [0x53] ∧
      (0x53 : Byte) ∉ ([0x10, 0x11, 0x12, 0x20, 0x21, 0x22, 0x30, 0x31, 0x32, 0x33, 0x40, 0x41, 0x42, 0x50, 0x51, 0x52] : List Byte) ∧
      2 < 3 := by decide
theorem witness_StepRunsTheOperationAtThePort :
    decode (State.reset.withPort [0x52]).port = .ok (.lpRst, []) ∧ State.reset.port = [] := ⟨rfl, rfl⟩
/-- R280: with no operation offered the run is over in IDLE and unfinished in RECV. -/
theorem test_step_quiescent : refusal (step State.reset) = some .noOperation := by decide +kernel
theorem test_step_unfinished : refusal (step (receiving 1 [])) = some .unfinishedRun := by decide +kernel
theorem witness_WireFormatsReadBack :
    (List.replicate 240 (0 : Byte)).length ≤ 240 ∧ (List.replicate 127 (0 : U16)).length ≤ 127 := by decide +kernel
theorem witness_EveryStepKeepsTheBlockSound : ∃ s t : State, Sound s ∧ step s = .next t :=
  ⟨State.reset.withPort [0x12], _, by decide, rfl⟩
theorem witness_NoInstructionChangesParametersOrPort : ∃ t, exec .crc8Clr State.reset = .next t := ⟨_, rfl⟩
theorem witness_SubUnitsWriteOnlyTheirOwnState :
    (∃ t, exec .lpRst State.reset = .next t) ∧ usesCrc .lpRst = false ∧ usesModbus .lpRst = false ∧
      usesParser .crc8Clr = false ∧ usesLinkTx .lpRst = false := ⟨⟨_, rfl⟩, rfl, rfl, rfl, rfl⟩
theorem witness_SubUnitsReadOnlyTheirOwnState :
    (usesCrc .crc8Rd = true ∧ ∃ t, exec .crc8Rd State.reset = .next t) ∧
      (usesModbus .mbTmo = true ∧ ∃ t, exec .mbTmo (receiving 1 []) = .next t) ∧
      (usesParser (.lpRdc 2) = true ∧ ∃ t, exec (.lpRdc 2) State.reset = .next t) ∧
      State.reset.crc = (receiving 1 []).crc ∧ (receiving 1 []).mb = ((receiving 1 []).sendLink [0]).mb ∧
      State.reset.lp = (receiving 1 []).lp ∧ State.reset.par = (receiving 1 []).par ∧
      (isStateless (.lfEnc 1 2 []) = true ∧ ∃ t, exec (.lfEnc 1 2 []) State.reset = .next t) :=
  ⟨⟨rfl, _, rfl⟩, ⟨rfl, _, rfl⟩, ⟨rfl, _, rfl⟩, rfl, rfl, rfl, rfl, rfl, _, rfl⟩
theorem witness_RequestSendsItsAduAndStartsTheTransaction :
    State.reset.mb.state = .idle ∧ (65535 : U16).toNat ≤ State.reset.par.mbCountMax := by decide
theorem witness_RequestIsRefusedInFlightOrAboveTheMaximum :
    (receiving 1 []).mb.state = .recv ∧
      ∃ s : State, s.mb.state = .idle ∧ s.par.mbCountMax < (126 : U16).toNat :=
  ⟨rfl, { State.reset with par := { Config.defaultParams with mbCountMax := 125 } }, rfl, by decide⟩
theorem witness_ReceivedByteIsAppended :
    (receiving 0 [1, 3, 0, 0x20]).mb.state = .recv ∧
      (receiving 0 [1, 3, 0, 0x20]).mb.cnt ≠ (receiving 0 [1, 3, 0, 0x20]).mb.need ∧
      (receiving 0 [1, 3, 0, 0x20, 0xF0]).mb.cnt = (receiving 0 [1, 3, 0, 0x20, 0xF0]).mb.need ∧
      State.reset.mb.state = .idle := by decide
theorem witness_ResponseBytesAccumulateInOrder :
    (receiving 1 []).mb.state = .recv ∧
      (receiving 1 []).mb.cnt + ([1, 3, 2, 0, 0, 0, 0] : List Byte).length ≤ (receiving 1 []).mb.need ∧
      (List.replicate 127 (0 : U16)).length ≤ 127 ∧ State.reset.mb.cnt ≤ State.reset.mb.need ∧
      (receiving 1 [1, 3, 2, 0, 0, 0, 0]).mb.cnt ≤ (receiving 1 [1, 3, 2, 0, 0, 0, 0]).mb.need := by decide +kernel
theorem witness_TimeoutFailsAnIncompleteTransaction :
    (receiving 0 [1, 3, 0, 0x20]).mb.state = .recv ∧
      (receiving 0 [1, 3, 0, 0x20]).mb.cnt ≠ (receiving 0 [1, 3, 0, 0x20]).mb.need ∧
      (receiving 0 [1, 3, 0, 0x20, 0xF0]).mb.cnt = (receiving 0 [1, 3, 0, 0x20, 0xF0]).mb.need := by decide
theorem witness_CheckReportsTheFirstFailedValidation :
    (receiving 0 [1, 3, 0, 0x20, 0xF0]).mb.state = .recv ∧
      (receiving 0 [1, 3, 0, 0x20, 0xF0]).mb.need ≤ (receiving 0 [1, 3, 0, 0x20, 0xF0]).mb.cnt ∧
      (receiving 0 [1, 3, 0, 0x20]).mb.cnt < (receiving 0 [1, 3, 0, 0x20]).mb.need := by decide
theorem witness_ValidResponseDeliversItsWords :
    ([0x1068] : List U16).length ≤ 127 ∧ (receiving 1 []).mb.state = .recv ∧
      (receiving 1 []).mb.count.toNat = ([0x1068] : List U16).length ∧
      (receiving 1 []).mb.need = 5 + 2 * ([0x1068] : List U16).length ∧ (receiving 1 []).mb.cnt = 0 ∧
      (receiving 1 []).mb.buf = [] := by decide
theorem witness_OneChangedResponseByteFailsTheCrc :
    ([0x1068] : List U16).length ≤ 127 ∧
      responseAdu 1 [0x1068] = [0x01, 0x03, 0x02, 0x10, 0x68, 0xB4] ++ 0x6A :: [] ∧ (0x6A : Byte) ≠ 0x95 ∧
      (receiving 1 []).mb.state = .recv ∧ (receiving 1 []).mb.need = 5 + 2 * ([0x1068] : List U16).length ∧
      (receiving 1 []).mb.cnt = 0 ∧ (receiving 1 []).mb.buf = [] := by decide +kernel
/-- A response of 128 words whose CRC and echo are good. -/
theorem long_response (body : List Byte) (hlen : body.length = 259) (hslave : body.getD 0 0 = 0x01)
    (hfunc : body.getD 1 0 = 0x03) : ∃ s : State,
    s.mb.state = .recv ∧ s.mb.need ≤ s.mb.cnt ∧ 128 ≤ s.mb.count.toNat ∧
      s.mb.buf.getD (s.mb.need - 2) 0 = lo (crc16 (s.mb.buf.take (s.mb.need - 2))) ∧
      s.mb.buf.getD (s.mb.need - 1) 0 = hi (crc16 (s.mb.buf.take (s.mb.need - 2))) ∧
      s.mb.buf.getD 0 0 = s.mb.slave ∧ s.mb.buf.getD 1 0 = 0x03 := by
  have htake : (body ++ le16 (crc16 body)).take 259 = body := by simp [← hlen]
  refine ⟨receiving 128 (body ++ le16 (crc16 body)), rfl, ?_, ?_, ?_, ?_, ?_, ?_⟩
  rotate_left
  · exact (by decide : 128 ≤ BitVec.toNat (128 : U16))
  all_goals simp only [receiving, show 5 + 2 * BitVec.toNat (128 : U16) = 261 from rfl, Nat.reduceSub, htake]
  · simp [le16, hlen]
  · simp [le16, hlen]
  · rw [List.getD_append _ _ _ _ (by omega), hslave]
  · rw [List.getD_append _ _ _ _ (by omega), hfunc]
  · simp [le16, hlen]
theorem witness_LargeCountsNeverSucceed : ∃ s : State,
    s.mb.state = .recv ∧ s.mb.need ≤ s.mb.cnt ∧ 128 ≤ s.mb.count.toNat ∧
      s.mb.buf.getD (s.mb.need - 2) 0 = lo (crc16 (s.mb.buf.take (s.mb.need - 2))) ∧
      s.mb.buf.getD (s.mb.need - 1) 0 = hi (crc16 (s.mb.buf.take (s.mb.need - 2))) ∧
      s.mb.buf.getD 0 0 = s.mb.slave ∧ s.mb.buf.getD 1 0 = 0x03 :=
  long_response (0x01 :: 0x03 :: 0x00 :: List.replicate 256 0)
    (by simp only [List.length_cons, List.length_replicate]) rfl rfl
theorem witness_ReadCallIsItsExpansion :
    State.reset.mb.state = .idle ∧ (2 : U16).toNat ≤ State.reset.par.mbCountMax ∧ (receiving 1 []).mb.state = .recv ∧
      ∃ s : State, s.mb.state = .idle ∧ s.par.mbCountMax < (126 : U16).toNat :=
  ⟨rfl, by decide, rfl, { State.reset with par := { Config.defaultParams with mbCountMax := 125 } }, rfl, by decide⟩
theorem witness_ReadCallDeliversTheWordsThatArrive :
    State.reset.mb.state = .idle ∧ ([0x1068, 0xFFFF] : List U16).length ≤ 127 ∧
      ([0x1068, 0xFFFF] : List U16).length ≤ State.reset.par.mbCountMax := by decide
theorem witness_ReadCallEndsIdleWithWordsOrOneFailure :
    State.reset.mb.state = .idle ∧ (0 : U16).toNat ≤ State.reset.par.mbCountMax := by decide
theorem witness_ReadCallCannotTellTheAddress :
    State.reset.mb.state = .idle ∧ (1 : U16).toNat ≤ State.reset.par.mbCountMax := by decide
theorem witness_TransactionInFlightHasAStep :
    Sound (receiving 0 [1, 3, 0, 0x20]) ∧ (receiving 0 [1, 3, 0, 0x20]).mb.state = .recv ∧
      Sound (receiving 0 [1, 3, 0, 0x20, 0xF0]) := ⟨by decide +kernel, rfl, by decide +kernel⟩
theorem witness_EncoderSendsOneFrameOrNothing :
    (List.replicate 240 (0 : Byte)).length ≤ 240 ∧ 240 < (List.replicate 241 (0 : Byte)).length := by decide +kernel
theorem witness_EncodedFramesDecodeBack : (List.replicate 240 (0xAA : Byte)).length ≤ 240 := by decide +kernel
theorem witness_FieldBlockSizeLaw :
    7 < 2 ^ (withFields 3).par.nFields ∧ 7 = 2 ^ (withFields 3).par.nFields - 1 ∧ 0 < 2 ^ (withFields 0).par.nFields := by
  decide
theorem witness_FieldBlockRowBuildsTheBlock : 5 < 2 ^ (withFields 3).par.nFields := by decide
theorem witness_FieldBlockPlacesEachValue :
    5 < 2 ^ (withFields 3).par.nFields ∧ threeValues.length = (withFields 3).par.nFields ∧
      [true, false, true].length = (withFields 3).par.nFields := by decide
theorem witness_FieldBlockRoundTrip :
    7 < 2 ^ (withFields 3).par.nFields ∧ threeValues.length = (withFields 3).par.nFields ∧
      [true, false, true].length = (withFields 3).par.nFields ∧ isnan32 (withFields 3).par.fbNan = true := by decide
theorem witness_UnpackReportsEachSetBit :
    5 < 2 ^ (withFields 3).par.nFields ∧
      ([0x00, 0x00, 0x28, 0x42, 0x00, 0x00, 0x12, 0x42] : List Byte).length = 4 * popcount (withFields 3).par.nFields 5 ∧
      ([0x00] : List Byte).length ≠ 4 * popcount (withFields 3).par.nFields 5 := by decide
theorem witness_WideMasksAreRefused : 2 ^ (withFields 3).par.nFields ≤ 8 := by decide
theorem witness_CrcDetectsEveryOneByteChange : (0x00 : Byte) ≠ 0x80 := by decide
theorem witness_FeedFollowsTheTransitionTable :
    (∀ stage : Stage, (parsing stage 0 0).lp.stage = stage) ∧
      (1 ≤ (1 : Byte).toNat ∧ (240 : Byte).toNat ≤ 240 ∧ 240 < (241 : Byte).toNat) ∧
      ((parsing .payload 0 0).lp.idx + 1 = (parsing .payload 0 0).lp.len.toNat ∧
        ∃ p : LinkParser, p.stage = .payload ∧ p.idx = 238 ∧ p.len = 240) ∧
      (0xFF : Byte) = (parsing .checksum 1 0x10).lp.expectedCrc ∧ (0xFE : Byte) ≠ (parsing .checksum 1 0x10).lp.expectedCrc :=
  ⟨fun _ => rfl, by decide, ⟨rfl, { (parsing .payload 238 0).lp with len := 240 }, rfl, rfl, rfl⟩, by decide +kernel,
    by decide +kernel⟩
theorem witness_ReadingACounterChangesNothing : 2 < 3 := by decide
theorem witness_CountersWrap : ∃ s : State,
    s.lp.stage = .hdr3 ∧ 240 < (0xF1 : Byte).toNat ∧ s.lp.ctrLength = 2 ^ s.par.ctrW - 1 :=
  ⟨{ State.reset with lp := { State.reset.lp with stage := .hdr3, ctrLength := 4294967295 } }, by decide⟩
theorem witness_CountersWrap_crc : ∃ s : State,
    s.lp.stage = .checksum ∧ (0x01 : Byte) ≠ crc8 ([s.lp.ver, s.lp.type, s.lp.seq, s.lp.len]
      ++ s.lp.buf.toList.take s.lp.len.toNat) ∧ s.lp.ctrCrc = 2 ^ s.par.ctrW - 1 :=
  ⟨{ State.reset with lp := { State.reset.lp with stage := .checksum, ctrCrc := 4294967295 } }, by decide +kernel⟩
theorem witness_CountersWrap_framing : ∃ s : State,
    s.lp.stage = .endMark ∧ (0x54 : Byte) ≠ 0x55 ∧ s.lp.ctrFraming = 2 ^ s.par.ctrW - 1 :=
  ⟨{ State.reset with lp := { State.reset.lp with stage := .endMark, ctrFraming := 4294967295 } }, by decide⟩
theorem witness_AbortingByteIsConsumed :
    (parsing .hdr0 0 0).lp.stage = .hdr0 ∧ (parsing .endMark 1 0).lp.stage = .endMark ∧
      (parsing .checksum 1 0x10).lp.stage = .checksum ∧
      (0xAA : Byte) ≠ crc8 ([(parsing .checksum 1 0x10).lp.ver, (parsing .checksum 1 0x10).lp.type,
        (parsing .checksum 1 0x10).lp.seq, (parsing .checksum 1 0x10).lp.len]
        ++ (parsing .checksum 1 0x10).lp.buf.toList.take (parsing .checksum 1 0x10).lp.len.toNat) := by decide +kernel
theorem witness_StrayStartLosesTheFrame :
    State.reset.lp.stage = .wait ∧ ([0x10] : List Byte).length ≤ 240 ∧
      0xAA ∉ (linkFrameBytes 0x01 0x00 [0x10]).drop 1 := by decide +kernel
theorem witness_NoiseBeforeAFrameIsDropped :
    State.reset.lp.stage = .wait ∧ (0xAA : Byte) ∉ ([0x00, 0x13, 0x55, 0xFF] : List Byte) ∧
      ([] : List Byte).length ≤ 240 := by decide
theorem witness_ArrivingFrameIsEmitted :
    (List.replicate 240 (0x55 : Byte)).length ≤ 240 ∧ State.reset.lp.stage = .wait := by decide +kernel
theorem witness_CorruptedFrameIsCountedOnce :
    State.reset.lp.stage = .wait ∧ ([0x10] : List Byte).length ≤ 240 ∧
      (([0x10] : List Byte) = [] ++ 0x10 :: [] ∧ ([0x11] : List Byte) = [] ++ 0x11 :: [] ∧ (0x10 : Byte) ≠ 0x11) ∧
      (0xFE : Byte) ≠ crc8 ([0x01, 0x01, 0x00, BitVec.ofNat 8 ([0x10] : List Byte).length] ++ [0x10]) := by
  decide +kernel
theorem witness_CommandNamesMapInjectively :
    "set_rate" ∈ ["ping", "set_rate"] ∧ "halt" ∉ ["ping", "set_rate", "set_fields", "sleep", "main_online", "wifi_connect",
      "status", "version", "reboot", "debug", "poll", "snapshot"] := by decide

end Sys2Proof.Tests
end

/-! # The state: what each kind of operation writes, reset, the accumulating response, the wrapping counters

PROOFS of the statements about the state (spec/10_state.md). The four frames below say once which fields of the state
an instruction of each kind can write; `exec_writesOnlyCrc` and its three companions tie them to `exec`. -/

namespace Sys2Proof.Machine

/-! ## What each kind of instruction writes -/

/-- From `s` to `t` nothing is written but the CRC unit and the reply. -/
structure WritesOnlyCrc (s t : State) : Prop where
  mb : t.mb = s.mb
  lp : t.lp = s.lp
  port : t.port = s.port
  linkTx : t.linkTx = s.linkTx
  mbTx : t.mbTx = s.mbTx
  emits : t.emits = s.emits
  par : t.par = s.par

/-- From `s` to `t` nothing is written but the Modbus codec, its stream and the reply. -/
structure WritesOnlyModbus (s t : State) : Prop where
  crc : t.crc = s.crc
  lp : t.lp = s.lp
  port : t.port = s.port
  linkTx : t.linkTx = s.linkTx
  emits : t.emits = s.emits
  par : t.par = s.par

/-- From `s` to `t` nothing is written but the LinkParser, its emit output and the reply. -/
structure WritesOnlyParser (s t : State) : Prop where
  crc : t.crc = s.crc
  mb : t.mb = s.mb
  port : t.port = s.port
  linkTx : t.linkTx = s.linkTx
  mbTx : t.mbTx = s.mbTx
  par : t.par = s.par

/-- From `s` to `t` nothing is written but `link_tx` and the reply. -/
structure WritesOnlyLinkTx (s t : State) : Prop where
  crc : t.crc = s.crc
  mb : t.mb = s.mb
  lp : t.lp = s.lp
  port : t.port = s.port
  mbTx : t.mbTx = s.mbTx
  emits : t.emits = s.emits
  par : t.par = s.par

theorem succeed_writesOnlyCrc (v : Value) (s : State) : WritesOnlyCrc s (s.succeed v) :=
  ⟨rfl, rfl, rfl, rfl, rfl, rfl, rfl⟩

theorem withCrc_succeed_writesOnlyCrc (u : CrcUnit) (v : Value) (s : State) :
    WritesOnlyCrc s ((s.withCrc u).succeed v) := ⟨rfl, rfl, rfl, rfl, rfl, rfl, rfl⟩

theorem WritesOnlyModbus.refl (s : State) : WritesOnlyModbus s s := ⟨rfl, rfl, rfl, rfl, rfl, rfl⟩

theorem WritesOnlyModbus.trans {s t u : State} (hst : WritesOnlyModbus s t) (htu : WritesOnlyModbus t u) :
    WritesOnlyModbus s u where
  crc := htu.crc.trans hst.crc
  lp := htu.lp.trans hst.lp
  port := htu.port.trans hst.port
  linkTx := htu.linkTx.trans hst.linkTx
  emits := htu.emits.trans hst.emits
  par := htu.par.trans hst.par

theorem succeed_writesOnlyModbus (v : Value) (s : State) : WritesOnlyModbus s (s.succeed v) :=
  ⟨rfl, rfl, rfl, rfl, rfl, rfl⟩

theorem sendRequest_writesOnlyModbus (slave : Byte) (addr count : U16) (s : State) :
    WritesOnlyModbus s (sendRequest slave addr count s) := by
  rcases sendRequest_cases slave addr count s with ⟨-, heq⟩ | ⟨-, heq⟩ <;> rw [heq] <;>
    exact ⟨rfl, rfl, rfl, rfl, rfl, rfl⟩

theorem receiveByte_writesOnlyModbus (b : Byte) (s : State) : WritesOnlyModbus s (receiveByte b s) :=
  ⟨rfl, rfl, rfl, rfl, rfl, rfl⟩

theorem receiveBytes_writesOnlyModbus (bytes : List Byte) (s : State) :
    WritesOnlyModbus s (receiveBytes bytes s).1 := by
  induction bytes generalizing s with
  | nil => exact .refl s
  | cons b bytes ih =>
    unfold receiveBytes
    split
    · exact .refl s
    · exact (receiveByte_writesOnlyModbus b s).trans (ih (receiveByte b s))

theorem expire_writesOnlyModbus (s : State) : WritesOnlyModbus s (expire s) := ⟨rfl, rfl, rfl, rfl, rfl, rfl⟩

theorem verdict_writesOnlyModbus (s : State) : WritesOnlyModbus s (verdict s) := by
  rcases verdict_cases s with ⟨kind, -, heq⟩ | ⟨-, heq⟩ <;> rw [heq] <;> exact ⟨rfl, rfl, rfl, rfl, rfl, rfl⟩

theorem readCall_writesOnlyModbus (slave : Byte) (addr count : U16) (rx : List Byte) (s : State) :
    WritesOnlyModbus s (readCall slave addr count rx s) := by
  have hrequest := sendRequest_writesOnlyModbus slave addr count s
  have hreceive := hrequest.trans (receiveBytes_writesOnlyModbus rx _)
  unfold readCall
  dsimp only
  split
  · exact hrequest
  · split
    · exact hreceive.trans (expire_writesOnlyModbus _)
    · exact hreceive.trans (verdict_writesOnlyModbus _)

theorem feedLink_writesOnlyParser (bytes : List Byte) (s : State) : WritesOnlyParser s (feedLink bytes s) :=
  ⟨rfl, rfl, rfl, rfl, rfl, rfl⟩

/-! ## The four kinds of instruction -/

/-- Every instruction is of one of the four kinds. -/
theorem instr_kind :
    ∀ i : Instr, usesCrc i = true ∨ usesModbus i = true ∨ usesParser i = true ∨ isStateless i = true
  | .crc8Clr | .crc8Upd _ | .crc8Rd | .crc16Clr | .crc16Upd _ | .crc16Rd => .inl rfl
  | .mbReq _ _ _ | .mbRxb _ | .mbTmo | .mbChk | .mbRead _ _ _ _ | .mbReqAdu _ _ _ | .mbRspAdu _ _ => .inr (.inl rfl)
  | .lpFeed _ | .lpRdc _ | .lpRst | .lpFeedn _ | .lfDec _ | .linkFrame _ _ _ => .inr (.inr (.inl rfl))
  | .lfEnc _ _ _ | .fbPack _ _ _ | .fbUnpack _ _ | .fieldBlock _ _ _ | .statusCodes _ | .commandNames _ =>
    .inr (.inr (.inr rfl))

theorem exec_writesOnlyCrc {s t : State} : ∀ {i : Instr}, usesCrc i = true → exec i s = .next t → WritesOnlyCrc s t
  | .crc8Clr, _, h | .crc8Upd _, _, h | .crc16Clr, _, h | .crc16Upd _, _, h =>
    Host.Outcome.next.inj h ▸ withCrc_succeed_writesOnlyCrc _ _ s
  | .crc8Rd, _, h | .crc16Rd, _, h => Host.Outcome.next.inj h ▸ succeed_writesOnlyCrc _ s

/-- `MB.TMO` completes only while bytes are missing (R147). -/
theorem execMbTmo_next {s t : State} (h : execMbTmo s = .next t) :
    s.mb.state = .recv ∧ s.mb.cnt ≠ s.mb.need ∧ t = expire s := by
  unfold execMbTmo at h
  split at h
  case isTrue => cases h
  case isFalse hen =>
    cases h
    cases hs : s.mb.state with
    | idle => exact absurd (.inl hs) hen
    | recv => exact ⟨rfl, fun hc => hen (.inr hc), rfl⟩

/-- `MB.CHK` completes only in RECV with no byte missing (R150). -/
theorem execMbChk_next {s t : State} (h : execMbChk s = .next t) :
    s.mb.state = .recv ∧ s.mb.need ≤ s.mb.cnt ∧ t = verdict s := by
  unfold execMbChk at h
  split at h
  case isTrue => cases h
  case isFalse hen =>
    cases h
    cases hs : s.mb.state with
    | idle => exact absurd (.inl hs) hen
    | recv => exact ⟨rfl, Nat.le_of_not_lt fun hc => hen (.inr hc), rfl⟩

/-- A response arrives only if its byte count can be said (R90). -/
theorem execMbRspAdu_next {slave : Byte} {words : List U16} {s t : State} (h : execMbRspAdu slave words s = .next t) :
    words.length ≤ 127 ∧ t = (receiveBytes (responseAdu slave words) s).1.succeed
      (.bytes (receiveBytes (responseAdu slave words) s).2) := by
  unfold execMbRspAdu at h
  split at h
  case isTrue => cases h
  case isFalse hlen =>
    cases h
    exact ⟨Nat.le_of_not_lt hlen, rfl⟩

theorem exec_writesOnlyModbus {s t : State} :
    ∀ {i : Instr}, usesModbus i = true → exec i s = .next t → WritesOnlyModbus s t
  | .mbReq slave addr count, _, h | .mbReqAdu slave addr count, _, h => by
    obtain ⟨-, -, rfl⟩ := guardRequest_next h
    exact sendRequest_writesOnlyModbus slave addr count s
  | .mbRxb b, _, h => by
    obtain ⟨-, -, rfl⟩ := offerByte_next h
    exact receiveByte_writesOnlyModbus b s
  | .mbTmo, _, h => by
    obtain ⟨-, -, rfl⟩ := execMbTmo_next h
    exact expire_writesOnlyModbus s
  | .mbChk, _, h => by
    obtain ⟨-, -, rfl⟩ := execMbChk_next h
    exact verdict_writesOnlyModbus s
  | .mbRead slave addr count rx, _, h => by
    obtain ⟨-, -, rfl⟩ := guardRequest_next h
    exact readCall_writesOnlyModbus slave addr count rx s
  | .mbRspAdu slave words, _, h => by
    obtain ⟨-, rfl⟩ := execMbRspAdu_next h
    exact (receiveBytes_writesOnlyModbus _ s).trans (succeed_writesOnlyModbus _ _)

/-- Reading a counter completes for the three counter numbers only, and writes the reply alone. -/
theorem execLpRdc_next {n : Nat} {s t : State} (h : execLpRdc n s = .next t) :
    n ≤ 2 ∧ ∃ c, t = s.succeed (.counter c) := by
  match n, h with
  | 0, rfl | 1, rfl | 2, rfl => exact ⟨by decide, _, rfl⟩

/-- A frame arrives only if its length byte can be said (R83). -/
theorem execLinkFrame_next {type seq : Byte} {payload : List Byte} {s t : State}
    (h : execLinkFrame type seq payload s = .next t) :
    payload.length ≤ 255 ∧ t = feedLink (linkFrameBytes type seq payload) s := by
  unfold execLinkFrame at h
  split at h
  case isTrue => cases h
  case isFalse hlen =>
    cases h
    exact ⟨Nat.le_of_not_lt hlen, rfl⟩

theorem exec_writesOnlyParser {s t : State} :
    ∀ {i : Instr}, usesParser i = true → exec i s = .next t → WritesOnlyParser s t
  | .lpFeed _, _, rfl | .lpFeedn _, _, rfl => feedLink_writesOnlyParser _ s
  | .lpRst, _, rfl | .lfDec _, _, rfl => ⟨rfl, rfl, rfl, rfl, rfl, rfl⟩
  | .lpRdc n, _, h => by
    obtain ⟨-, c, rfl⟩ := execLpRdc_next h
    exact ⟨rfl, rfl, rfl, rfl, rfl, rfl⟩
  | .linkFrame type seq payload, _, h => by
    obtain ⟨-, rfl⟩ := execLinkFrame_next h
    exact feedLink_writesOnlyParser _ s

/-- `FB.UNPACK` tests the mask before the length (R180). -/
theorem execFbUnpack_next {mask : Nat} {bytes : List Byte} {s t : State} (h : execFbUnpack mask bytes s = .next t) :
    mask < 2 ^ s.par.nFields ∧
      t = if bytes.length ≠ 4 * popcount s.par.nFields mask then s.fail .errFbLen .none
        else s.succeed (.fields (unpackBlock s.par.nFields mask bytes)) := by
  unfold execFbUnpack at h
  exact guardMask_next h

theorem exec_writesOnlyLinkTx {s t : State} :
    ∀ {i : Instr}, isStateless i = true → exec i s = .next t → WritesOnlyLinkTx s t
  | .lfEnc type seq payload, _, rfl => by
    split <;> exact ⟨rfl, rfl, rfl, rfl, rfl, rfl, rfl⟩
  | .fbPack mask vals present, _, h | .fieldBlock mask vals present, _, h => by
    obtain ⟨-, rfl⟩ := guardMask_next h
    exact ⟨rfl, rfl, rfl, rfl, rfl, rfl, rfl⟩
  | .fbUnpack mask bytes, _, h => by
    obtain ⟨-, rfl⟩ := execFbUnpack_next h
    split <;> exact ⟨rfl, rfl, rfl, rfl, rfl, rfl, rfl⟩
  | .statusCodes _, _, rfl | .commandNames _, _, rfl => ⟨rfl, rfl, rfl, rfl, rfl, rfl, rfl⟩

/-- Settles O9: each of the four kinds writes only its own sub-unit, its own stream and the reply. -/
theorem noInstructionChangesParametersOrPort : Obligations.NoInstructionChangesParametersOrPort := by
  unfold Obligations.NoInstructionChangesParametersOrPort
  intro i s t h
  rcases instr_kind i with hi | hi | hi | hi
  · have hframe := exec_writesOnlyCrc hi h
    exact ⟨hframe.par, hframe.port⟩
  · have hframe := exec_writesOnlyModbus hi h
    exact ⟨hframe.par, hframe.port⟩
  · have hframe := exec_writesOnlyParser hi h
    exact ⟨hframe.par, hframe.port⟩
  · have hframe := exec_writesOnlyLinkTx hi h
    exact ⟨hframe.par, hframe.port⟩

/-! ## The accumulating response -/

@[simp] theorem be16_length (w : U16) : (be16 w).length = 2 := rfl

@[simp] theorem le16_length (w : U16) : (le16 w).length = 2 := rfl

theorem responseBody_length (slave : Byte) (words : List U16) :
    (responseBody slave words).length = 3 + 2 * words.length := by
  simp [responseBody, List.length_flatMap]
  omega

theorem responseAdu_length (slave : Byte) (words : List U16) :
    (responseAdu slave words).length = 5 + 2 * words.length := by
  rw [responseAdu, List.length_append, responseBody_length, le16_length]
  omega

/-- Bytes that fit into the expected length are all taken, in order, and none stays in the stream. -/
theorem receiveBytes_of_fit {bytes : List Byte} {s : State} (hrecv : s.mb.state = .recv)
    (hfit : s.mb.cnt + bytes.length ≤ s.mb.need) :
    ∃ r, receiveBytes bytes s =
      ({ s with mb := { s.mb with buf := s.mb.buf ++ bytes, cnt := s.mb.cnt + bytes.length }, reply := r }, []) := by
  obtain ⟨r, hr⟩ := receiveBytes_eq bytes s (by omega)
  have hroom : bytes.length ≤ s.mb.need - s.mb.cnt := by omega
  rw [if_pos hrecv, List.take_of_length_le hroom, List.drop_of_length_le hroom] at hr
  exact ⟨r, hr⟩

/-- `MB.RXB` offered byte by byte takes bytes that fit as they are taken when they arrive on `mb_rx`. -/
theorem execAll_mbRxb_of_fit {bytes : List Byte} {s : State} (hrecv : s.mb.state = .recv)
    (hfit : s.mb.cnt + bytes.length ≤ s.mb.need) :
    execAll (bytes.map .mbRxb) s = .next (receiveBytes bytes s).1 := by
  induction bytes generalizing s with
  | nil => rfl
  | cons b bytes ih =>
    rw [List.length_cons] at hfit
    have hcnt : s.mb.cnt ≠ s.mb.need := by omega
    have hstep : exec (.mbRxb b) s = .next (receiveByte b s) := offerByte_of_recv hrecv hcnt
    have htail : (receiveByte b s).mb.cnt + bytes.length ≤ (receiveByte b s).mb.need := by
      simp only [receiveByte, State.succeed_mb, State.withMb_mb, ModbusPort.push_cnt, ModbusPort.push_need]
      omega
    have henabled : ¬ (s.mb.state = .idle ∨ s.mb.cnt = s.mb.need) := by simp [hrecv, hcnt]
    simp only [List.map_cons, execAll, hstep, receiveBytes, if_neg henabled]
    exact ih hrecv htail

/-- An arriving response is taken as far as it fits into the expected length; the other bytes are the result. -/
theorem exec_mbRspAdu {slave : Byte} {words : List U16} {s : State} (hlen : words.length ≤ 127) :
    exec (.mbRspAdu slave words) s = .next ((receiveBytes (responseAdu slave words) s).1.succeed
      (.bytes (receiveBytes (responseAdu slave words) s).2)) :=
  if_neg (Nat.not_lt.mpr hlen)

/-- Settles O25: both clauses read off what `receiveBytes` does with the room that is left. -/
theorem responseBytesAccumulateInOrder : Obligations.ResponseBytesAccumulateInOrder := by
  unfold Obligations.ResponseBytesAccumulateInOrder
  constructor
  · intro s bytes hrecv hfit
    obtain ⟨r, hr⟩ := receiveBytes_of_fit hrecv hfit
    exact ⟨_, execAll_mbRxb_of_fit hrecv hfit, by rw [hr]⟩
  · intro s slave words hlen hcnt adu room
    obtain ⟨r, hr⟩ := receiveBytes_eq adu s hcnt
    refine ⟨responseAdu_length slave words, ?_⟩
    rw [exec_mbRspAdu hlen, hr, List.length_take]
    rfl

/-! ## Reset -/

/-- Settles O6: each value stands in the definition of the reset state. -/
theorem resetLeavesTheStatedValues : Obligations.ResetLeavesTheStatedValues := by
  unfold Obligations.ResetLeavesTheStatedValues
  exact ⟨rfl, rfl, rfl, rfl, rfl, rfl, rfl, rfl⟩

/-! ## The wrapping counters -/

theorem bump_max (w : Nat) : bump w (2 ^ w - 1) = 0 := by
  rw [bump, Nat.sub_add_cancel Nat.one_le_two_pow, Nat.mod_self]

/-- A length above the maximum is counted as a length fault (R197). -/
theorem LinkParser.feed_ctrLength_of_tooLong {w : Nat} {p : LinkParser} {b : Byte} (hstage : p.stage = .hdr3)
    (hlen : Config.maxPayload < b.toNat) : (p.feed w b).ctrLength = bump w p.ctrLength := by
  simp [LinkParser.feed, LinkParser.feedLength, hstage, hlen]

/-- A checksum other than the expected one is counted as a CRC fault (R199). -/
theorem LinkParser.feed_ctrCrc_of_mismatch {w : Nat} {p : LinkParser} {b : Byte} (hstage : p.stage = .checksum)
    (hcrc : b ≠ p.expectedCrc) : (p.feed w b).ctrCrc = bump w p.ctrCrc := by
  simp [LinkParser.feed, LinkParser.feedChecksum, hstage, hcrc]

/-- A byte other than END in stage `END` is counted as a framing fault (R200). -/
theorem LinkParser.feed_ctrFraming_of_notEnd {w : Nat} {p : LinkParser} {b : Byte} (hstage : p.stage = .endMark)
    (hend : b ≠ Config.endByte) : (p.feed w b).ctrFraming = bump w p.ctrFraming := by
  simp only [LinkParser.feed, hstage, LinkParser.feedEnd, if_neg hend, LinkParser.frameReset_ctrFraming]

/-- `LP.FEED b` leaves the parser that the transition table gives. -/
theorem feedLink_singleton_lp (b : Byte) (s : State) : (feedLink [b] s).lp = s.lp.feed s.par.ctrW b := rfl

/-- Settles O47: each of the three faults increments its counter, and the increment of `2 ^ w - 1` is 0. -/
theorem countersWrap : Obligations.CountersWrap := by
  unfold Obligations.CountersWrap
  intro s b
  refine ⟨feedLink [b] s, rfl, ?_, ?_, ?_⟩
  · intro hstage hlen hctr
    rw [feedLink_singleton_lp, LinkParser.feed_ctrLength_of_tooLong hstage hlen, hctr, bump_max]
  · intro hstage hcrc hctr
    rw [feedLink_singleton_lp, LinkParser.feed_ctrCrc_of_mismatch hstage hcrc, hctr, bump_max]
  · intro hstage hend hctr
    rw [feedLink_singleton_lp, LinkParser.feed_ctrFraming_of_notEnd hstage hend, hctr, bump_max]

end Sys2Proof.Machine

/-! # Sub-units: which state and streams an operation writes, and which it reads

PROOFS of the statements about the sub-units' separation (spec/20_memory.md R66). What an operation reads is compared
over two runs, from `s` to `t` and from `s'` to `t'`, that start in states which agree on one sub-unit: the relations
below say that both runs then do the same to that sub-unit, and each shared operation has one lemma about them. -/

namespace Sys2Proof.Machine

/-! ## What an instruction writes -/

/-- A stateless row other than `LF.ENC` writes the reply alone. -/
theorem exec_stateless_next {s t : State} :
    ∀ {i : Instr}, isStateless i = true → usesLinkTx i = false → exec i s = .next t → ∃ r, t = { s with reply := r }
  | .fbPack mask vals present, _, _, h | .fieldBlock mask vals present, _, _, h => by
    obtain ⟨-, rfl⟩ := guardMask_next h
    exact ⟨_, rfl⟩
  | .fbUnpack mask bytes, _, _, h => by
    obtain ⟨-, rfl⟩ := execFbUnpack_next h
    split <;> exact ⟨_, rfl⟩
  | .statusCodes _, _, _, rfl | .commandNames _, _, _, rfl => ⟨_, rfl⟩

/-- Settles O10: the four frames, and of the stateless rows only `LF.ENC` sends. -/
theorem subUnitsWriteOnlyTheirOwnState : Obligations.SubUnitsWriteOnlyTheirOwnState := by
  unfold Obligations.SubUnitsWriteOnlyTheirOwnState
  intro i s t h
  rcases instr_kind i with hi | hi | hi | hi
  · have hframe := exec_writesOnlyCrc hi h
    exact ⟨by simp [hi], fun _ => ⟨hframe.mb, hframe.mbTx⟩, fun _ => ⟨hframe.lp, hframe.emits⟩, fun _ => hframe.linkTx⟩
  · have hframe := exec_writesOnlyModbus hi h
    exact ⟨fun _ => hframe.crc, by simp [hi], fun _ => ⟨hframe.lp, hframe.emits⟩, fun _ => hframe.linkTx⟩
  · have hframe := exec_writesOnlyParser hi h
    exact ⟨fun _ => hframe.crc, fun _ => ⟨hframe.mb, hframe.mbTx⟩, by simp [hi], fun _ => hframe.linkTx⟩
  · have hframe := exec_writesOnlyLinkTx hi h
    refine ⟨fun _ => hframe.crc, fun _ => ⟨hframe.mb, hframe.mbTx⟩, fun _ => ⟨hframe.lp, hframe.emits⟩, fun hlink => ?_⟩
    obtain ⟨r, rfl⟩ := exec_stateless_next hi hlink h
    rfl

/-! ## Two runs that do the same -/

/-- Two streams, from `old` to `new` and from `old'` to `new'`, have the same items appended. -/
def AppendsSame {α : Type} (old old' new new' : List α) : Prop :=
  ∃ items, new = old ++ items ∧ new' = old' ++ items

theorem AppendsSame.of_append {α : Type} (old old' items : List α) :
    AppendsSame old old' (old ++ items) (old' ++ items) := ⟨items, rfl, rfl⟩

theorem AppendsSame.refl {α : Type} (old old' : List α) : AppendsSame old old' old old' :=
  ⟨[], (List.append_nil old).symm, (List.append_nil old').symm⟩

theorem AppendsSame.trans {α : Type} {old old' mid mid' new new' : List α} (hmid : AppendsSame old old' mid mid')
    (hnew : AppendsSame mid mid' new new') : AppendsSame old old' new new' := by
  obtain ⟨items, rfl, rfl⟩ := hmid
  obtain ⟨more, rfl, rfl⟩ := hnew
  exact ⟨items ++ more, List.append_assoc .., List.append_assoc ..⟩

/-- Two runs leave the CRC unit the same and reply the same. -/
structure SameOnCrc (t t' : State) : Prop where
  crc : t'.crc = t.crc
  reply : t'.reply = t.reply

/-- Two runs leave the Modbus codec the same and send the same. -/
structure SameTransaction (s s' t t' : State) : Prop where
  mb : t'.mb = t.mb
  sent : AppendsSame s.mbTx s'.mbTx t.mbTx t'.mbTx

/-- Two runs leave the Modbus codec the same, send the same and reply the same. -/
structure SameOnModbus (s s' t t' : State) : Prop extends SameTransaction s s' t t' where
  reply : t'.reply = t.reply

/-- Two runs leave the LinkParser the same, emit the same and reply the same. -/
structure SameOnParser (s s' t t' : State) : Prop where
  lp : t'.lp = t.lp
  reply : t'.reply = t.reply
  emitted : AppendsSame s.emits s'.emits t.emits t'.emits

/-- Two runs send the same on `link_tx` and reply the same. -/
structure SameOnLinkTx (s s' t t' : State) : Prop where
  reply : t'.reply = t.reply
  sent : AppendsSame s.linkTx s'.linkTx t.linkTx t'.linkTx

theorem SameTransaction.trans {s s' t t' u u' : State} (hst : SameTransaction s s' t t')
    (htu : SameTransaction t t' u u') : SameTransaction s s' u u' := ⟨htu.mb, hst.sent.trans htu.sent⟩

theorem SameTransaction.transReply {s s' t t' u u' : State} (hst : SameTransaction s s' t t')
    (htu : SameOnModbus t t' u u') : SameOnModbus s s' u u' := ⟨hst.trans htu.toSameTransaction, htu.reply⟩

/-! ## What the CRC unit's operations read -/

theorem exec_readsOnlyCrc {s s' t : State} (hcrc : s'.crc = s.crc) :
    ∀ {i : Instr}, usesCrc i = true → exec i s = .next t → ∃ t', exec i s' = .next t' ∧ SameOnCrc t t'
  | .crc8Clr, _, rfl | .crc8Upd _, _, rfl | .crc16Clr, _, rfl | .crc16Upd _, _, rfl =>
    ⟨_, rfl, by simp only [State.succeed_crc, State.withCrc_crc, hcrc], rfl⟩
  | .crc8Rd, _, rfl | .crc16Rd, _, rfl =>
    ⟨_, rfl, hcrc, by simp only [State.succeed_reply, hcrc]⟩

/-! ## What the Modbus codec's operations read -/

/-- Whether a request's write fails, and how much of it was sent, is drawn by the codec's own counter. -/
theorem sendRequest_same {s s' : State} (slave : Byte) (addr count : U16) (hmb : s'.mb = s.mb) :
    SameOnModbus s s' (sendRequest slave addr count s) (sendRequest slave addr count s') := by
  unfold sendRequest
  rw [hmb]
  split <;> exact ⟨⟨rfl, .of_append ..⟩, rfl⟩

theorem receiveByte_same {s s' : State} (b : Byte) (hmb : s'.mb = s.mb) :
    SameOnModbus s s' (receiveByte b s) (receiveByte b s') :=
  ⟨⟨congrArg (ModbusPort.push b) hmb, .refl ..⟩, rfl⟩

/-- The bytes that stay in the stream are the same, too. The replies need not be: no byte may be taken at all. -/
theorem receiveBytes_same {s s' : State} (bytes : List Byte) (hmb : s'.mb = s.mb) :
    SameTransaction s s' (receiveBytes bytes s).1 (receiveBytes bytes s').1 ∧
      (receiveBytes bytes s').2 = (receiveBytes bytes s).2 := by
  induction bytes generalizing s s' with
  | nil => exact ⟨⟨hmb, .refl ..⟩, rfl⟩
  | cons b bytes ih =>
    unfold receiveBytes
    rw [hmb]
    split
    · exact ⟨⟨hmb, .refl ..⟩, rfl⟩
    · have hfirst := (receiveByte_same b hmb).toSameTransaction
      obtain ⟨hothers, hrest⟩ := ih hfirst.mb
      exact ⟨hfirst.trans hothers, hrest⟩

theorem expire_same {s s' : State} (hmb : s'.mb = s.mb) : SameOnModbus s s' (expire s) (expire s') := by
  unfold expire
  rw [hmb]
  exact ⟨⟨rfl, .refl ..⟩, rfl⟩

theorem verdict_same {s s' : State} (hmb : s'.mb = s.mb) : SameOnModbus s s' (verdict s) (verdict s') := by
  unfold verdict
  rw [hmb]
  split <;> exact ⟨⟨rfl, .refl ..⟩, rfl⟩

theorem readCall_same {s s' : State} (slave : Byte) (addr count : U16) (rx : List Byte) (hmb : s'.mb = s.mb) :
    SameOnModbus s s' (readCall slave addr count rx s) (readCall slave addr count rx s') := by
  have hrequest := sendRequest_same slave addr count hmb
  have hreceive := hrequest.trans (receiveBytes_same rx hrequest.mb).1
  unfold readCall
  dsimp only
  rw [hmb, hreceive.mb]
  split
  · exact hrequest
  · split
    · exact hreceive.transReply (expire_same hreceive.mb)
    · exact hreceive.transReply (verdict_same hreceive.mb)

/-- The precondition of a request reads the codec and a parameter. -/
theorem guardRequest_same {count : U16} {run : State → State} {s s' t : State} (hmb : s'.mb = s.mb)
    (hpar : s'.par = s.par) (hrun : SameOnModbus s s' (run s) (run s')) (h : guardRequest count run s = .next t) :
    ∃ t', guardRequest count run s' = .next t' ∧ SameOnModbus s s' t t' := by
  obtain ⟨hidle, hmax, rfl⟩ := guardRequest_next h
  exact ⟨run s', guardRequest_of_idle (hmb ▸ hidle) (hpar ▸ hmax), hrun⟩

/-- While bytes are missing `MB.TMO` completes. -/
theorem execMbTmo_of_recv {s : State} (hrecv : s.mb.state = .recv) (hcnt : s.mb.cnt ≠ s.mb.need) :
    execMbTmo s = .next (expire s) := by
  simp [execMbTmo, hrecv, hcnt]

/-- In RECV with no byte missing `MB.CHK` completes. -/
theorem execMbChk_of_recv {s : State} (hrecv : s.mb.state = .recv) (hneed : s.mb.need ≤ s.mb.cnt) :
    execMbChk s = .next (verdict s) := by
  simp [execMbChk, hrecv, Nat.not_lt.mpr hneed]

theorem exec_readsOnlyModbus {s s' t : State} (hmb : s'.mb = s.mb) (hpar : s'.par = s.par) :
    ∀ {i : Instr}, usesModbus i = true → exec i s = .next t → ∃ t', exec i s' = .next t' ∧ SameOnModbus s s' t t'
  | .mbReq slave addr count, _, h | .mbReqAdu slave addr count, _, h =>
    guardRequest_same hmb hpar (sendRequest_same slave addr count hmb) h
  | .mbRead slave addr count rx, _, h => guardRequest_same hmb hpar (readCall_same slave addr count rx hmb) h
  | .mbRxb b, _, h => by
    obtain ⟨hrecv, hcnt, rfl⟩ := offerByte_next h
    rw [← hmb] at hrecv hcnt
    exact ⟨_, offerByte_of_recv hrecv hcnt, receiveByte_same b hmb⟩
  | .mbTmo, _, h => by
    obtain ⟨hrecv, hcnt, rfl⟩ := execMbTmo_next h
    rw [← hmb] at hrecv hcnt
    exact ⟨_, execMbTmo_of_recv hrecv hcnt, expire_same hmb⟩
  | .mbChk, _, h => by
    obtain ⟨hrecv, hneed, rfl⟩ := execMbChk_next h
    rw [← hmb] at hrecv hneed
    exact ⟨_, execMbChk_of_recv hrecv hneed, verdict_same hmb⟩
  | .mbRspAdu slave words, _, h => by
    obtain ⟨hlen, rfl⟩ := execMbRspAdu_next h
    obtain ⟨hreceive, hrest⟩ := receiveBytes_same (responseAdu slave words) hmb
    exact ⟨_, exec_mbRspAdu hlen, ⟨hreceive.mb, hreceive.sent⟩, by simp only [State.succeed_reply, hrest]⟩

/-! ## What the LinkParser's operations read -/

theorem feedLink_same {s s' : State} (bytes : List Byte) (hlp : s'.lp = s.lp) (hpar : s'.par = s.par) :
    SameOnParser s s' (feedLink bytes s) (feedLink bytes s') := by
  unfold feedLink
  rw [hlp, hpar]
  exact ⟨rfl, rfl, .of_append ..⟩

theorem execLpRdc_same {n : Nat} {s s' t : State} (hlp : s'.lp = s.lp) (h : execLpRdc n s = .next t) :
    ∃ t', execLpRdc n s' = .next t' ∧ SameOnParser s s' t t' := by
  match n, h with
  | 0, rfl | 1, rfl | 2, rfl => exact ⟨_, rfl, hlp, by simp only [State.succeed_reply, hlp], .refl ..⟩

/-- `LF.DEC` is a reset of the parser and then a batch. -/
theorem execLfDec_same {bytes : List Byte} {s s' t : State} (hlp : s'.lp = s.lp) (hpar : s'.par = s.par)
    (h : execLfDec bytes s = .next t) : ∃ t', execLfDec bytes s' = .next t' ∧ SameOnParser s s' t t' := by
  cases h
  have hclear : s'.lp.clear = s.lp.clear := congrArg LinkParser.clear hlp
  have hbatch : SameOnParser (s.withLp s.lp.clear []) (s'.withLp s'.lp.clear []) _ _ :=
    feedLink_same bytes hclear hpar
  refine ⟨_, rfl, hbatch.lp, ?_, (AppendsSame.of_append ..).trans hbatch.emitted⟩
  rw [State.succeed_reply, State.succeed_reply, hbatch.lp, hclear, hpar]

theorem exec_readsOnlyParser {s s' t : State} (hlp : s'.lp = s.lp) (hpar : s'.par = s.par) :
    ∀ {i : Instr}, usesParser i = true → exec i s = .next t → ∃ t', exec i s' = .next t' ∧ SameOnParser s s' t t'
  | .lpFeed _, _, rfl | .lpFeedn _, _, rfl => ⟨_, rfl, feedLink_same _ hlp hpar⟩
  | .lpRdc _, _, h => execLpRdc_same hlp h
  | .lpRst, _, rfl => ⟨_, rfl, congrArg LinkParser.clear hlp, rfl, .of_append ..⟩
  | .lfDec _, _, h => execLfDec_same hlp hpar h
  | .linkFrame _ _ _, _, h => by
    obtain ⟨hlen, rfl⟩ := execLinkFrame_next h
    exact ⟨_, if_neg (Nat.not_lt.mpr hlen), feedLink_same _ hlp hpar⟩

/-! ## What the stateless rows read -/

/-- The precondition on a mask reads a parameter only. -/
theorem guardMask_same {mask : Nat} {run : State → State} {s s' t : State} (hpar : s'.par = s.par)
    (hrun : SameOnLinkTx s s' (run s) (run s')) (h : guardMask mask run s = .next t) :
    ∃ t', guardMask mask run s' = .next t' ∧ SameOnLinkTx s s' t t' := by
  obtain ⟨hmask, rfl⟩ := guardMask_next h
  exact ⟨run s', guardMask_of_lt (hpar ▸ hmask), hrun⟩

theorem returnBlock_same {s s' : State} (mask : Nat) (vals : List U32) (present : List Bool) (hpar : s'.par = s.par) :
    SameOnLinkTx s s' (returnBlock mask vals present s) (returnBlock mask vals present s') := by
  unfold returnBlock
  rw [hpar]
  exact ⟨rfl, .refl ..⟩

theorem execLfEnc_same {type seq : Byte} {payload : List Byte} {s s' t : State}
    (h : execLfEnc type seq payload s = .next t) :
    ∃ t', execLfEnc type seq payload s' = .next t' ∧ SameOnLinkTx s s' t t' := by
  cases h
  refine ⟨_, rfl, ?_⟩
  split
  · exact ⟨rfl, .refl ..⟩
  · exact ⟨rfl, .of_append ..⟩

theorem execFbUnpack_same {mask : Nat} {bytes : List Byte} {s s' t : State} (hpar : s'.par = s.par)
    (h : execFbUnpack mask bytes s = .next t) :
    ∃ t', execFbUnpack mask bytes s' = .next t' ∧ SameOnLinkTx s s' t t' := by
  unfold execFbUnpack at h ⊢
  refine guardMask_same hpar ?_ h
  rw [hpar]
  split <;> exact ⟨rfl, .refl ..⟩

theorem exec_stateless_readsOnlyParams {s s' t : State} (hpar : s'.par = s.par) :
    ∀ {i : Instr}, isStateless i = true → exec i s = .next t → ∃ t', exec i s' = .next t' ∧ SameOnLinkTx s s' t t'
  | .lfEnc _ _ _, _, h => execLfEnc_same h
  | .fbPack mask vals present, _, h | .fieldBlock mask vals present, _, h =>
    guardMask_same hpar (returnBlock_same mask vals present hpar) h
  | .fbUnpack _ _, _, h => execFbUnpack_same hpar h
  | .statusCodes _, _, rfl | .commandNames _, _, rfl => ⟨_, rfl, rfl, .refl ..⟩

/-- Settles O11: for each of the four kinds, two runs from states that agree on what it reads do the same. -/
theorem subUnitsReadOnlyTheirOwnState : Obligations.SubUnitsReadOnlyTheirOwnState := by
  unfold Obligations.SubUnitsReadOnlyTheirOwnState
  refine ⟨fun i s s' t hi hcrc h => ?_, fun i s s' t hi hmb hpar h => ?_, fun i s s' t hi hlp hpar h => ?_,
    fun i s s' t hi hpar h => ?_, instr_kind⟩
  · obtain ⟨t', hrun, hsame⟩ := exec_readsOnlyCrc hcrc.symm hi h
    exact ⟨t', hrun, hsame.crc, hsame.reply⟩
  · obtain ⟨t', hrun, hsame⟩ := exec_readsOnlyModbus hmb.symm hpar.symm hi h
    exact ⟨t', hrun, hsame.mb, hsame.reply, hsame.sent⟩
  · obtain ⟨t', hrun, hsame⟩ := exec_readsOnlyParser hlp.symm hpar.symm hi h
    exact ⟨t', hrun, hsame.lp, hsame.reply, hsame.emitted⟩
  · obtain ⟨t', hrun, hsame⟩ := exec_stateless_readsOnlyParams hpar.symm hi h
    exact ⟨t', hrun, hsame.reply, hsame.sent⟩

end Sys2Proof.Machine

/-! # Encodings: the operation port, the wire formats, the response and the frame that arrive, the field block

PROOFS of the statements about encodings (spec/30_encoding.md). Each reader of Decode.lean has one lemma that says what
it makes of the bytes its writer wrote with anything behind them; a decoder's round trip puts those lemmas one after
another. -/

namespace Sys2Proof

open Machine

/-! ## Sequences of parts of one length -/

theorem length_flatMap_of_length {α β : Type} {f : α → List β} {k : Nat} (hf : ∀ a, (f a).length = k) (as : List α) :
    (as.flatMap f).length = k * as.length := by
  simp [List.length_flatMap, hf, Nat.mul_comm]

/-- Part number `j` begins at offset `k * j`. -/
theorem drop_flatMap_of_length {α β : Type} {f : α → List β} {k : Nat} (hf : ∀ a, (f a).length = k) (as : List α)
    (j : Nat) : (as.flatMap f).drop (k * j) = (as.drop j).flatMap f := by
  induction j generalizing as with
  | zero => rfl
  | succ j ih =>
    cases as with
    | nil => simp
    | cons a as =>
      rw [List.flatMap_cons, Nat.mul_succ, Nat.add_comm, ← List.drop_drop, List.drop_left' (hf a), ih,
        List.drop_succ_cons]

/-! ## The operands of the operation port -/

@[simp] theorem andThen_ok {α β : Type} (a : α) (rest : List Byte) (second : α → List Byte → Parse β) :
    andThen (.ok (a, rest)) second = second a rest := rfl

@[simp] theorem takeByte_cons (b : Byte) (rest : List Byte) : takeByte (b :: rest) = .ok (b, rest) := rfl

@[simp] theorem takeU16_le16 (w : U16) (rest : List Byte) : takeU16 (le16 w ++ rest) = .ok (w, rest) := by
  simp [takeU16, le16, word16_hi_lo]

/-- A mask takes the eight bytes of its field (log entry 2). -/
theorem takeNat_mask {mask : Nat} (rest : List Byte) (hfits : maskFits mask = true) :
    takeNat 8 (putNat 8 mask ++ rest) = .ok (mask, rest) :=
  takeNat_putNat 8 mask rest (of_decide_eq_true hfits)

/-- One entry of the field lists reads back as its flag and its pattern. -/
theorem takeFields_cons (n : Nat) (v : U32) (p : Bool) (bytes : List Byte) :
    takeFields (n + 1) ((if p then 1 else 0) :: (le32 v ++ bytes)) =
      andThen (takeFields n bytes) fun lists rest => .ok ((v :: lists.1, p :: lists.2), rest) := by
  cases p <;> simp [takeFields, le32, word32_le32]

theorem takeFields_putFields {vals : List U32} {present : List Bool} (rest : List Byte)
    (hlen : vals.length = present.length) :
    takeFields vals.length (putFields vals present ++ rest) = .ok ((vals, present), rest) := by
  induction vals generalizing present with
  | nil =>
    obtain rfl := List.length_eq_zero_iff.mp hlen.symm
    rfl
  | cons v vals ih =>
    cases present with
    | nil => cases hlen
    | cons p present =>
      have htail := ih (Nat.succ.inj hlen)
      rw [putFields, List.cons_append, List.append_assoc, List.length_cons, takeFields_cons, htail, andThen_ok]

/-! ## Operations -/

/-- Behind its code, a well-formed operation's operands read back as the operation (R81, R82). -/
theorem decodeOperands_operandBytes (rest : List Byte) :
    ∀ {i : Instr} {op : Byte}, opCode i = some op → wellFormed i = true →
      decodeOperands op (operandBytes i ++ rest) = .ok (i, rest)
  | .crc8Clr, _, rfl, _ | .crc8Rd, _, rfl, _ | .crc16Clr, _, rfl, _ | .crc16Rd, _, rfl, _ | .mbTmo, _, rfl, _
  | .mbChk, _, rfl, _ | .lpRst, _, rfl, _ => rfl
  | .crc8Upd _, _, rfl, _ | .crc16Upd _, _, rfl, _ | .mbRxb _, _, rfl, _ | .lpFeed _, _, rfl, _ => rfl
  | .mbReq slave addr count, _, rfl, _ => by
    simp [decodeOperands, operandBytes]
  | .lfEnc type seq payload, _, rfl, hwf => by
    simp [decodeOperands, operandBytes, takeBytes_putBytes _ _ hwf]
  | .fbPack mask vals present, _, rfl, hwf => by
    obtain ⟨hmask, hlists⟩ := Bool.and_eq_true_iff.mp hwf
    obtain ⟨hlen, hmax⟩ := of_decide_eq_true hlists
    have hcount : vals.length < 256 := Nat.lt_of_le_of_lt hmax (by decide)
    simp [decodeOperands, operandBytes, takeNat_mask _ hmask, Nat.mod_eq_of_lt hcount, takeFields_putFields _ hlen]
  | .fbUnpack mask bytes, _, rfl, hwf => by
    obtain ⟨hmask, hbytes⟩ := Bool.and_eq_true_iff.mp hwf
    simp [decodeOperands, operandBytes, takeNat_mask _ hmask, takeBytes_putBytes _ _ hbytes]
  | .lpRdc n, _, rfl, hwf => by
    have hn : n < 256 := of_decide_eq_true hwf
    simp [decodeOperands, operandBytes, Nat.mod_eq_of_lt hn]

/-- An instruction that has a code is written as its code and its operands. -/
theorem encode_of_opCode {i : Instr} {op : Byte} (n : Nat) (nan : U32) (h : opCode i = some op) :
    encode n nan i = op :: operandBytes i := by
  have hencode : encode n nan i = (expand i).flatMap encodeOperation := by cases i <;> cases h <;> rfl
  have hexpand : expand i = [i] := by cases i <;> cases h <;> rfl
  rw [hencode, hexpand]
  simp [encodeOperation, h]

/-- Settles O2: behind the code, each operand reads back in turn. -/
theorem operationsReadBackFromThePort : Obligations.OperationsReadBackFromThePort := by
  unfold Obligations.OperationsReadBackFromThePort
  intro i n nan rest hcode hwf
  obtain ⟨op, hop⟩ := Option.isSome_iff_exists.mp hcode
  rw [encode_of_opCode n nan hop]
  exact decodeOperands_operandBytes rest hop hwf

/-- Settles O1: the decoder run on the bytes written out. -/
theorem operationCodesSelectTheirOperations : Obligations.OperationCodesSelectTheirOperations := by
  unfold Obligations.OperationCodesSelectTheirOperations
  exact ⟨rfl, rfl, rfl, rfl, rfl, rfl, rfl, rfl, rfl, rfl, rfl, rfl, rfl, rfl, rfl, rfl⟩

/-- A code that is none of the sixteen selects nothing (R104). -/
theorem decodeOperands_of_unlisted {op : Byte} (bytes : List Byte)
    (h : op ∉ [0x10, 0x11, 0x12, 0x20, 0x21, 0x22, 0x30, 0x31, 0x32, 0x33, 0x40, 0x41, 0x42, 0x50, 0x51, 0x52]) :
    decodeOperands op bytes = .error (.unknownOp op) := by
  unfold decodeOperands
  split
  case h_17 => rfl
  all_goals
    rename_i hop
    exact absurd (by simp [← BitVec.toNat_inj, hop]) h

/-! ## The step -/

theorem step_of_decode {s : State} {i : Instr} {rest : List Byte} (h : decode s.port = .ok (i, rest)) :
    step s = exec i (s.withPort rest) := by
  simp [step, h]

theorem step_of_decode_error {s : State} {e : DecodeError} (h : decode s.port = .error e) :
    step s = .refused (fetchRefusal s e) := by
  simp [step, h]

theorem exec_lpRdc_of_two_lt {n : Nat} (s : State) (h : 2 < n) : exec (.lpRdc n) s = .refused .noSuchCounter := by
  match n, h with
  | n + 3, _ => rfl

/-- Settles O3: an unlisted code does not decode, and the fourth case of `LP.RDC` is the refusal. -/
theorem unlistedCodesAndCountersAreRefused : Obligations.UnlistedCodesAndCountersAreRefused := by
  unfold Obligations.UnlistedCodesAndCountersAreRefused
  refine ⟨fun s op bytes hport hop => ?_, fun s n hn => exec_lpRdc_of_two_lt s hn⟩
  have hdecode : decode s.port = .error (.unknownOp op) := by
    rw [hport]
    exact decodeOperands_of_unlisted bytes hop
  exact step_of_decode_error hdecode

/-- Settles O4: the two answers of the decoder, and its answer at an empty port. -/
theorem stepRunsTheOperationAtThePort : Obligations.StepRunsTheOperationAtThePort := by
  unfold Obligations.StepRunsTheOperationAtThePort
  refine ⟨fun s i rest hdecode => step_of_decode hdecode, fun s hport => ?_⟩
  have hdecode : decode s.port = .error .noOperation := by rw [hport]; rfl
  exact step_of_decode_error hdecode

/-! ## The wire formats -/

theorem decodeLinkFrame_linkFrameBytes (type seq : Byte) {payload : List Byte} (rest : List Byte)
    (hlen : payload.length ≤ Config.maxPayload) :
    decodeLinkFrame (linkFrameBytes type seq payload ++ rest) = .ok (.linkFrame type seq payload, rest) := by
  have hbyte : payload.length % 256 = payload.length := Nat.mod_eq_of_lt (Nat.lt_of_le_of_lt hlen (by decide))
  simp [decodeLinkFrame, linkFrameBytes, linkFrameBody, hbyte, Nat.not_lt.mpr hlen]

theorem decodeRequestAdu_requestAdu (slave : Byte) (addr count : U16) (rest : List Byte) :
    decodeRequestAdu (requestAdu slave addr count ++ rest) = .ok (.mbReqAdu slave addr count, rest) := by
  simp [decodeRequestAdu, requestAdu, requestBody, be16, le16, word16_hi_lo]

theorem wordsOf_be16_append (w : U16) (bytes : List Byte) : wordsOf (be16 w ++ bytes) = w :: wordsOf bytes := by
  simp [wordsOf, be16, word16_hi_lo]

/-- The payload region of a response reads back as its words (R91). -/
theorem wordsOf_flatMap_be16 (words : List U16) : wordsOf (words.flatMap be16) = words := by
  induction words with
  | nil => rfl
  | cons w words ih => rw [List.flatMap_cons, wordsOf_be16_append, ih]

theorem decodeResponseAdu_responseAdu (slave : Byte) {words : List U16} (rest : List Byte)
    (hlen : words.length ≤ 127) :
    decodeResponseAdu (responseAdu slave words ++ rest) = .ok (.mbRspAdu slave words, rest) := by
  have hregion := length_flatMap_of_length be16_length words
  have hbyte : 2 * words.length % 256 = (words.flatMap be16).length := by omega
  have heven : (words.flatMap be16).length % 2 = 0 := by omega
  simp [decodeResponseAdu, responseAdu, responseBody, -List.length_flatMap, hbyte, heven, le16, word16_hi_lo,
    wordsOf_flatMap_be16]

/-- Settles O5: the three decoders, each on what its format's writer wrote. -/
theorem wireFormatsReadBack : Obligations.WireFormatsReadBack := by
  unfold Obligations.WireFormatsReadBack
  exact ⟨fun _ _ type seq _ rest hlen => decodeLinkFrame_linkFrameBytes type seq rest hlen,
    fun _ _ slave addr count rest => decodeRequestAdu_requestAdu slave addr count rest,
    fun _ _ slave _ rest hlen => decodeResponseAdu_responseAdu slave rest hlen⟩

end Sys2Proof

namespace Sys2Proof.Machine

/-! ## A response that arrives -/

/-- Counting from offset `k` of a sequence is counting from the start of what stands there. -/
theorem byteAt_add (s : List Byte) (k i : Nat) : byteAt s (k + i) = byteAt (s.drop k) i := by
  simp [byteAt]

/-- From word number `i` on, the payload region of a response begins with that word, high byte first (R90). -/
theorem drop_responseAdu {words : List U16} {i : Nat} (slave : Byte) (hlt : i < words.length) :
    ∃ rest, (responseAdu slave words).drop (3 + 2 * i) = be16 words[i] ++ rest := by
  have hregion : 2 * i ≤ (words.flatMap be16).length := by
    rw [length_flatMap_of_length be16_length]
    omega
  refine ⟨(words.drop (i + 1)).flatMap be16 ++ le16 (crc16 (responseBody slave words)), ?_⟩
  calc (responseAdu slave words).drop (3 + 2 * i)
      = (words.flatMap be16 ++ le16 (crc16 (responseBody slave words))).drop (2 * i) := by
        rw [← List.drop_drop]
        rfl
    _ = (words.drop i).flatMap be16 ++ le16 (crc16 (responseBody slave words)) := by
        rw [List.drop_append_of_le_length hregion, drop_flatMap_of_length be16_length]
    _ = _ := by rw [List.drop_eq_getElem_cons hlt, List.flatMap_cons, List.append_assoc]

/-- The registers hold a whole response to the request in flight: the latched slave, the words asked for, the CRC-16. -/
structure HoldsResponse (m : ModbusPort) (words : List U16) : Prop where
  buf : m.buf = responseAdu m.slave words
  count : m.count.toNat = words.length
  need : m.need = 5 + 2 * words.length
  short : words.length ≤ 127

/-- A whole response passes the three validations (R150). -/
theorem HoldsResponse.validate_eq_none {m : ModbusPort} {words : List U16} (h : HoldsResponse m words) :
    validate m = none := by
  have hcheck : m.need - 2 = (responseBody m.slave words).length := by
    rw [h.need, responseBody_length]
    omega
  have hlast : m.need - 1 = (responseBody m.slave words).length + 1 := by
    have := h.need
    omega
  have htake : m.buf.take (m.need - 2) = responseBody m.slave words := by
    rw [h.buf, hcheck, responseAdu, List.take_left]
  have hcrc : m.buf.drop (m.need - 2) = le16 (crc16 (responseBody m.slave words)) := by
    rw [h.buf, hcheck, responseAdu, List.drop_left]
  have hlo : byteAt m.buf (m.need - 2) = lo (crc16 (responseBody m.slave words)) := by
    rw [← Nat.add_zero (m.need - 2), byteAt_add, hcrc]
    rfl
  have hhi : byteAt m.buf (m.need - 1) = hi (crc16 (responseBody m.slave words)) := by
    rw [hlast, ← hcheck, byteAt_add, hcrc]
    rfl
  have hslave : byteAt m.buf 0 = m.slave := by rw [h.buf]; rfl
  have hfunc : byteAt m.buf 1 = Config.mbFunc := by rw [h.buf]; rfl
  have hcount : (byteAt m.buf 2).toNat = 2 * m.count.toNat := by
    have hbyte : byteAt m.buf 2 = BitVec.ofNat 8 (2 * words.length) := by rw [h.buf]; rfl
    have := h.short
    rw [hbyte, h.count, BitVec.toNat_ofNat]
    omega
  simp [validate, htake, hlo, hhi, hslave, hfunc, hcount]

/-- A whole response delivers its words, in order (R150). -/
theorem HoldsResponse.responseWords_eq {m : ModbusPort} {words : List U16} (h : HoldsResponse m words) :
    responseWords m = words := by
  refine List.ext_getElem (by rw [responseWords_length, h.count]) fun i _ hlt => ?_
  obtain ⟨rest, hrest⟩ := drop_responseAdu m.slave hlt
  have hhigh : byteAt m.buf (3 + 2 * i) = hi words[i] := by
    rw [← Nat.add_zero (3 + 2 * i), byteAt_add, h.buf, hrest]
    rfl
  have hlow : byteAt m.buf (4 + 2 * i) = lo words[i] := by
    rw [show 4 + 2 * i = 3 + 2 * i + 1 by omega, byteAt_add, h.buf, hrest]
    rfl
  simp [responseWords, hhigh, hlow, word16_hi_lo]

/-- `MB.CHK` on a whole response ends the transaction with the words (R150). -/
theorem verdict_of_holdsResponse {s : State} {words : List U16} (h : HoldsResponse s.mb words) :
    verdict s = (s.withMb s.mb.finish).succeed (.words words) := by
  rw [verdict, h.validate_eq_none, h.responseWords_eq]

/-- As many bytes as the request in flight expects, received one by one and checked, are the verdict on them. -/
theorem execAll_mbRxb_mbChk {bytes : List Byte} {s : State} (hrecv : s.mb.state = .recv) (hcnt : s.mb.cnt = 0)
    (hbuf : s.mb.buf = []) (hlen : bytes.length = s.mb.need) :
    ∃ t, execAll (bytes.map .mbRxb ++ [.mbChk]) s = .next (verdict t) ∧
      t.mb = { s.mb with buf := bytes, cnt := bytes.length } := by
  have hfit : s.mb.cnt + bytes.length ≤ s.mb.need := by omega
  obtain ⟨r, hreceived⟩ := receiveBytes_of_fit hrecv hfit
  have hmb : (receiveBytes bytes s).1.mb = { s.mb with buf := bytes, cnt := bytes.length } := by
    rw [hreceived, hbuf, hcnt, List.nil_append, Nat.zero_add]
  have hcheck : exec .mbChk (receiveBytes bytes s).1 = .next (verdict (receiveBytes bytes s).1) :=
    execMbChk_of_recv (by rw [hmb]; exact hrecv) (by rw [hmb]; exact hlen.ge)
  refine ⟨(receiveBytes bytes s).1, ?_, hmb⟩
  rw [execAll_append (execAll_mbRxb_of_fit hrecv hfit), execAll, hcheck]
  rfl

/-- Settles O28: the bytes are accumulated to a whole response, on which `MB.CHK` delivers the words. -/
theorem validResponseDeliversItsWords : Obligations.ValidResponseDeliversItsWords := by
  unfold Obligations.ValidResponseDeliversItsWords
  intro s words hshort hrecv hcount hneed hcnt hbuf
  have hlen : (responseAdu s.mb.slave words).length = s.mb.need := by rw [responseAdu_length, hneed]
  obtain ⟨t, hrun, hmb⟩ := execAll_mbRxb_mbChk hrecv hcnt hbuf hlen
  have hholds : HoldsResponse t.mb words := by
    rw [hmb]
    exact ⟨rfl, hcount, hneed, hshort⟩
  refine ⟨verdict t, hrun, ?_⟩
  rw [verdict_of_holdsResponse hholds]
  exact ⟨rfl, rfl⟩

/-! ## A frame that arrives -/

theorem LinkParser.emitted_of_stage_ne {p : LinkParser} (b : Byte) (h : p.stage ≠ .endMark) : p.emitted b = [] :=
  if_neg fun hend => h hend.1

/-- The parser that has taken START and a header: the payload comes next, or where the length is 0 the checksum. -/
def LinkParser.withHeader (type seq len : Byte) (p : LinkParser) : LinkParser :=
  { p with stage := if len = 0 then .checksum else .payload, ver := Config.version, type := type, seq := seq,
           len := len, idx := 0 }

/-- A parser in `WAIT` takes START and the header of a frame, and emits nothing (R193 to R197). -/
theorem LinkParser.feedAll_withHeader {p : LinkParser} (w : Nat) (type seq : Byte) {len : Byte} (hwait : p.stage = .wait)
    (hlen : len.toNat ≤ 240) :
    p.feedAll w [Config.startByte, Config.version, type, seq, len] = p.withHeader type seq len ∧
      p.emittedAll w [Config.startByte, Config.version, type, seq, len] = [] := by
  simp [withHeader, feedAll, emittedAll, emitted, feed, feedWait, feedVersion, feedType, feedSeq, feedLength, hwait,
    Nat.not_lt.mpr hlen]

theorem take_succ_set {α : Type} {as : List α} {i : Nat} (a : α) (h : i < as.length) :
    (as.set i a).take (i + 1) = as.take i ++ [a] := by
  rw [List.take_add_one, List.take_set_of_le le_rfl, List.getElem?_set_self h, Option.toList_some]

/-- The bytes that a parser still misses of its payload are stored in order, and the checksum comes next (R198). Where
none is missing, as after a header of length 0, the parser is there already. -/
theorem LinkParser.feedAll_payload (w : Nat) (bytes : List Byte) {p : LinkParser}
    (hstage : p.stage = if p.idx = p.len.toNat then .checksum else .payload) (hmax : p.len.toNat ≤ 240)
    (hrest : p.idx + bytes.length = p.len.toNat) :
    ∃ buf : Vector Byte 240, buf.toList.take p.len.toNat = p.buf.toList.take p.idx ++ bytes ∧
      p.feedAll w bytes = { p with stage := .checksum, idx := p.len.toNat, buf := buf } ∧ p.emittedAll w bytes = [] := by
  induction bytes generalizing p with
  | nil =>
    have hidx : p.idx = p.len.toNat := hrest
    rw [if_pos hidx] at hstage
    refine ⟨p.buf, by simp [hidx], ?_, rfl⟩
    rw [← hstage, ← hidx]
    rfl
  | cons b bytes ih =>
    rw [List.length_cons] at hrest
    have hmissing : p.idx ≠ p.len.toNat := by omega
    rw [if_neg hmissing] at hstage
    have hfeed : p.feed w b = p.feedPayload b := by rw [feed, hstage]
    have hsilent : p.emitted b = [] := emitted_of_stage_ne b (by simp [hstage])
    obtain ⟨buf, hstored, hfed, hemitted⟩ := ih (p := p.feedPayload b) rfl hmax (by
      simp only [feedPayload]
      omega)
    refine ⟨buf, ?_, ?_, ?_⟩
    · have hidx : p.idx < p.buf.toList.length := by
        rw [Vector.length_toList]
        omega
      simpa [feedPayload, take_succ_set b hidx] using hstored
    · rw [feedAll, hfeed, hfed]
      rfl
    · rw [emittedAll, hfeed, hsilent, hemitted]
      rfl

/-- After START, header and payload a parser that was in `WAIT` holds the frame and awaits its checksum. -/
theorem LinkParser.feedAll_linkFrameBody {p : LinkParser} (w : Nat) (type seq : Byte) {payload : List Byte}
    (hwait : p.stage = .wait) (hlen : payload.length ≤ 240) :
    ∃ buf : Vector Byte 240, buf.toList.take payload.length = payload ∧
      p.feedAll w (Config.startByte :: linkFrameBody type seq payload) =
        { p with stage := .checksum, ver := Config.version, type := type, seq := seq,
                 len := BitVec.ofNat 8 payload.length, idx := payload.length, buf := buf } ∧
      p.emittedAll w (Config.startByte :: linkFrameBody type seq payload) = [] := by
  have hsplit : Config.startByte :: linkFrameBody type seq payload =
      [Config.startByte, Config.version, type, seq, BitVec.ofNat 8 payload.length] ++ payload := rfl
  have hbyte : (BitVec.ofNat 8 payload.length).toNat = payload.length := by
    rw [BitVec.toNat_ofNat]
    omega
  obtain ⟨hheader, hsilent⟩ := feedAll_withHeader w type seq hwait (hbyte.trans_le hlen)
  have hzero : BitVec.ofNat 8 payload.length = 0 ↔ 0 = payload.length := by
    rw [← BitVec.toNat_inj, hbyte]
    exact eq_comm
  have hstage : (p.withHeader type seq (BitVec.ofNat 8 payload.length)).stage =
      if 0 = (BitVec.ofNat 8 payload.length).toNat then .checksum else .payload := by
    simp only [withHeader, hbyte, hzero]
  obtain ⟨buf, hstored, hfed, hemitted⟩ := feedAll_payload w payload hstage (hbyte.trans_le hlen)
    ((Nat.zero_add _).trans hbyte.symm)
  rw [hsplit, feedAll_append, emittedAll_append, hheader, hsilent]
  simp only [withHeader, hbyte] at hstored hfed
  exact ⟨buf, hstored, hfed, hemitted⟩

/-- The expected checksum and END make a parser emit the frame it holds and reset (R199, R200). -/
theorem LinkParser.feedAll_trailer {p : LinkParser} (w : Nat) (hstage : p.stage = .checksum) :
    p.feedAll w [p.expectedCrc, Config.endByte] = p.frameReset ∧
      p.emittedAll w [p.expectedCrc, Config.endByte] = [p.frame] := by
  have hcheck : p.feed w p.expectedCrc = { p with stage := .endMark } := by
    simp [feed, feedChecksum, hstage]
  have hsilent : p.emitted p.expectedCrc = [] := emitted_of_stage_ne _ (by simp [hstage])
  constructor
  · rw [feedAll, hcheck]
    rfl
  · rw [emittedAll, hcheck, hsilent]
    rfl

/-- A whole frame fed to a parser in `WAIT` is emitted, and leaves what a frame reset leaves (R200, R206). -/
theorem LinkParser.feedAll_linkFrameBytes {p : LinkParser} (w : Nat) (type seq : Byte) {payload : List Byte}
    (hwait : p.stage = .wait) (hlen : payload.length ≤ 240) :
    p.feedAll w (linkFrameBytes type seq payload) = p.frameReset ∧
      p.emittedAll w (linkFrameBytes type seq payload) =
        [{ version := Config.version, type := type, seq := seq, payload := payload }] := by
  obtain ⟨buf, hstored, hfed, hemitted⟩ := feedAll_linkFrameBody w type seq hwait hlen
  have hsplit : linkFrameBytes type seq payload = (Config.startByte :: linkFrameBody type seq payload) ++
      [crc8 (linkFrameBody type seq payload), Config.endByte] := rfl
  generalize hq : p.feedAll w (Config.startByte :: linkFrameBody type seq payload) = q at hfed
  have hcollected : q.collected = payload := by
    have hbyte : payload.length % 256 = payload.length := by omega
    simp [hfed, collected, hbyte, hstored]
  have hcrc : q.expectedCrc = crc8 (linkFrameBody type seq payload) := by
    rw [expectedCrc, hcollected, hfed]
    rfl
  have hframe : q.frame = { version := Config.version, type := type, seq := seq, payload := payload } := by
    rw [frame, hcollected, hfed]
  obtain ⟨hreset, hlast⟩ := feedAll_trailer w (show q.stage = .checksum by rw [hfed])
  rw [hsplit, feedAll_append, emittedAll_append, hq, hemitted, ← hcrc, hreset, hlast, hframe]
  exact ⟨by rw [hfed]; rfl, rfl⟩

/-- Settles O55: the row is the batch of its bytes, and a parser in `WAIT` takes them as a whole frame. -/
theorem arrivingFrameIsEmitted : Obligations.ArrivingFrameIsEmitted := by
  unfold Obligations.ArrivingFrameIsEmitted
  intro s type seq payload hlen
  refine ⟨feedLink (linkFrameBytes type seq payload) s, if_neg (by omega), rfl, fun hwait => ?_⟩
  obtain ⟨hfed, hemitted⟩ := LinkParser.feedAll_linkFrameBytes s.par.ctrW type seq hwait hlen
  simp [feedLink, hfed, hemitted]

/-! ## The field block -/

theorem mem_selected_iff {n mask i : Nat} (hmask : mask < 2 ^ n) : i ∈ selected n mask ↔ mask.testBit i = true := by
  have hbelow : mask.testBit i = true → i < n := fun hbit =>
    (Nat.pow_lt_pow_iff_right (by decide)).mp ((Nat.ge_two_pow_of_testBit hbit).trans_lt hmask)
  simpa [selected] using hbelow

theorem selected_pairwise_lt (n mask : Nat) : (selected n mask).Pairwise (· < ·) :=
  List.pairwise_lt_range.filter _

theorem selected_length (n mask : Nat) : (selected n mask).length = popcount n mask :=
  List.countP_eq_length_filter.symm

@[simp] theorem le32_length (v : U32) : (le32 v).length = 4 := rfl

/-- Four bytes per selected field (R92). -/
theorem packBlock_length (n : Nat) (nan : U32) (mask : Nat) (vals : List U32) (present : List Bool) :
    (packBlock n nan mask vals present).length = 4 * (selected n mask).length :=
  length_flatMap_of_length (fun _ => le32_length _) _

/-- The pattern of set bit number `j` stands at block offset `4 * j` (R92). -/
theorem take_drop_packBlock {n mask j i : Nat} (nan : U32) (vals : List U32) (present : List Bool)
    (hj : (selected n mask)[j]? = some i) :
    ((packBlock n nan mask vals present).drop (4 * j)).take 4 = le32 (fieldPattern nan vals present i) := by
  obtain ⟨hlt, rfl⟩ := List.getElem?_eq_some_iff.mp hj
  rw [packBlock, drop_flatMap_of_length (fun _ => le32_length _), List.drop_eq_getElem_cons hlt, List.flatMap_cons,
    List.take_left' (le32_length _)]

/-- A field's pattern is its value where it is present and has one, else `FB_NAN` (R176, R177). -/
theorem fieldPattern_eq (nan : U32) (vals : List U32) (present : List Bool) (i : Nat) :
    fieldPattern nan vals present i = if present[i]? = some true then (vals[i]?).getD nan else nan := by
  by_cases hpresent : present[i]? = some true
  · cases hval : vals[i]? <;> simp [fieldPattern, hpresent, hval]
  · rw [if_neg hpresent, fieldPattern]
    split
    · contradiction
    · rfl

/-- Settles O40: the block's parts are the patterns of the selected fields, ascending, four bytes each. -/
theorem fieldBlockPlacesEachValue : Obligations.FieldBlockPlacesEachValue := by
  unfold Obligations.FieldBlockPlacesEachValue
  intro s mask vals present hmask _ _
  refine ⟨selected s.par.nFields mask, _, guardMask_of_lt hmask, selected_pairwise_lt _ _,
    fun _ => mem_selected_iff hmask, packBlock_length .., fun j i hj => ⟨fun v hpresent hval => ?_, fun habsent => ?_⟩⟩
  · rw [take_drop_packBlock _ _ _ hj, fieldPattern_eq, if_pos hpresent, hval, Option.getD_some]
  · rw [take_drop_packBlock _ _ _ hj, fieldPattern_eq, if_neg (by simp [habsent])]

/-- Settles O39: the row completes with `packBlock`, whose patterns are those of the statement. -/
theorem fieldBlockRowBuildsTheBlock : Obligations.FieldBlockRowBuildsTheBlock := by
  unfold Obligations.FieldBlockRowBuildsTheBlock
  intro s mask vals present hmask
  refine ⟨packBlock s.par.nFields s.par.fbNan mask vals present, guardMask_of_lt hmask, ?_, ?_⟩
  · rw [packBlock_length, selected_length]
  · simp only [packBlock, selected, fieldPattern_eq]

/-! ## The payload vocabularies -/

/-- Settles O58: each code's byte stands in `statusByte`. -/
theorem statusCodesAreTheirBytes : Obligations.StatusCodesAreTheirBytes := by
  unfold Obligations.StatusCodesAreTheirBytes
  exact fun s => ⟨rfl, rfl, rfl, rfl⟩

/-- The lookup finds a row of the table of that name. -/
theorem mem_commandTable_of_lookupCommand {name : String} {c : CommandName} (h : lookupCommand name = some c) :
    (name, c) ∈ commandTable := by
  obtain ⟨row, hfind, rfl⟩ := Option.map_eq_some_iff.mp h
  have hname : row.1 = name := by simpa using List.find?_some hfind
  exact hname ▸ List.mem_of_find?_eq_some hfind

/-- The lookup finds nothing exactly where the name is none of the table's. -/
theorem lookupCommand_eq_none_iff {name : String} :
    lookupCommand name = none ↔ name ∉ commandTable.map Prod.fst := by
  rw [lookupCommand, Option.map_eq_none_iff, List.find?_eq_none, List.mem_map]
  constructor
  · rintro hno ⟨row, hrow, rfl⟩
    exact hno row hrow (beq_self_eq_true row.1)
  · exact fun hnot row hrow hname => hnot ⟨row, hrow, eq_of_beq hname⟩

/-- No two rows of the table have one place in the spec's list. -/
theorem commandIndex_nodup : (commandTable.map fun row => commandIndex row.2).Nodup := by decide

/-- `CMD_ID` is injective on the names (R110, D18). -/
theorem eq_of_commandId_lookupCommand_eq {a b : String} {c d : CommandName} (ha : lookupCommand a = some c)
    (hb : lookupCommand b = some d) (hid : commandId c = commandId d) : a = b := by
  have hindex : commandIndex c = commandIndex d := Config.commandPerm.injective hid
  have hrow := List.inj_on_of_nodup_map commandIndex_nodup (mem_commandTable_of_lookupCommand ha)
    (mem_commandTable_of_lookupCommand hb) hindex
  exact congrArg Prod.fst hrow

theorem exec_commandNames (name : String) (s : State) :
    exec (.commandNames name) s = .next (s.succeed (.command ((lookupCommand name).map commandId))) := rfl

/-- Settles O59: the lookup finds a name of the table, no other has its identifier, and any other name is not found. -/
theorem commandNamesMapInjectively : Obligations.CommandNamesMapInjectively := by
  unfold Obligations.CommandNamesMapInjectively
  refine ⟨fun s name hname => ?_, fun s name hname => ?_⟩
  · have hfound : lookupCommand name ≠ none := fun hnone => lookupCommand_eq_none_iff.mp hnone hname
    obtain ⟨c, hc⟩ := Option.ne_none_iff_exists'.mp hfound
    refine ⟨commandId c, by rw [exec_commandNames, hc]; rfl, fun other hother => ?_⟩
    have hreply := congrArg State.reply (Host.Outcome.next.inj hother)
    have hid : (lookupCommand other).map commandId = some (commandId c) :=
      Value.command.inj (congrArg Reply.value hreply)
    obtain ⟨d, hd, hdc⟩ := Option.map_eq_some_iff.mp hid
    exact eq_of_commandId_lookupCommand_eq hd hc hdc
  · have hnone : lookupCommand name = none := lookupCommand_eq_none_iff.mpr hname
    rw [exec_commandNames, hnone]
    rfl

end Sys2Proof.Machine

/-! # The checksums: folds of a step, detection of one changed byte, the CRC unit

PROOFS of the statements about the checksums (spec/40_crc.md). Both steps exclusive-or a byte into the register and then
iterate one shift eight times. The shift is injective, because the bit that it shifts in tells the bit that it tested;
every statement about what a checksum detects rests on that. -/

namespace Sys2Proof.Machine

open Function (Injective Bijective)

/-! ## Folds of an injective step -/

/-- A step that loses nothing of the register, whatever it is fed, loses nothing over a sequence. -/
theorem foldl_injective {σ β : Type} {step : σ → β → σ} (hreg : ∀ b, Injective (step · b)) (bytes : List β) :
    Injective (bytes.foldl step ·) := by
  induction bytes with
  | nil => exact Function.injective_id
  | cons b bytes ih => exact ih.comp (hreg b)

/-- A step that also tells any two bytes apart tells two sequences apart that differ in one byte. -/
theorem foldl_ne_of_byte_ne {σ β : Type} {step : σ → β → σ} (hreg : ∀ b, Injective (step · b))
    (hbyte : ∀ c, Injective (step c)) (c : σ) (before after : List β) {x y : β} (hxy : x ≠ y) :
    (before ++ x :: after).foldl step c ≠ (before ++ y :: after).foldl step c := by
  intro heq
  simp only [List.foldl_append, List.foldl_cons] at heq
  exact hxy (hbyte _ (foldl_injective hreg after heq))

/-! ## The CRC-8 -/

@[simp] theorem crc8_nil : crc8 [] = 0x00 := rfl

theorem crc8_append (s t : List Byte) : crc8 (s ++ t) = t.foldl crc8Step (crc8 s) := List.foldl_append

@[simp] theorem crc8_concat (s : List Byte) (b : Byte) : crc8 (s ++ [b]) = crc8Step (crc8 s) b := crc8_append s [b]

/-- Bit 0 of the polynomial is set, and the shift leaves bit 0 clear: it tells the bit that was tested. -/
theorem crc8Shift_getLsbD_zero (c : Byte) : (crc8Shift c).getLsbD 0 = c.getLsbD 7 := by
  unfold crc8Shift
  split
  next hbit => simp [hbit]
  next hbit => simpa using hbit

theorem crc8Shift_injective : Injective crc8Shift := by
  intro c d heq
  have htop : c.getLsbD 7 = d.getLsbD 7 := by rw [← crc8Shift_getLsbD_zero, heq, crc8Shift_getLsbD_zero]
  have hshift : c <<< 1 = d <<< 1 := by
    unfold crc8Shift at heq
    rw [htop] at heq
    split at heq
    next => exact (BitVec.xor_left_inj _).mp heq
    next => exact heq
  refine BitVec.eq_of_getLsbD_eq fun i hi => ?_
  by_cases h7 : i = 7
  · rw [h7, htop]
  · have hbit := congrArg (BitVec.getLsbD · (i + 1)) hshift
    simpa [hi, show i + 1 < 8 by omega] using hbit

theorem crc8Step_injective (b : Byte) : Injective (crc8Step · b) :=
  (crc8Shift_injective.iterate 8).comp (xor_left_involutive b).injective

theorem crc8Step_injective_byte (c : Byte) : Injective (crc8Step c) :=
  (crc8Shift_injective.iterate 8).comp (xor_right_involutive c).injective

/-- Fed its own contents, the register is cleared. -/
@[simp] theorem crc8Step_self (c : Byte) : crc8Step c c = 0x00 := by
  rw [crc8Step, BitVec.xor_self]
  exact Function.iterate_fixed (f := crc8Shift) rfl 8

theorem crc8_replicate_zero (n : Nat) : crc8 (List.replicate n 0x00) = 0x00 := by
  induction n with
  | zero => rfl
  | succ n ih => rw [List.replicate_succ', crc8_concat, ih, crc8Step_self]

/-- A data bit fed against bit 7 is that bit exclusive-ored into the register, where it is shifted out. -/
theorem crc8FeedBit_getLsbD (c y : Byte) : crc8FeedBit c (y.getLsbD 7) = crc8Shift (c ^^^ y) ^^^ y <<< 1 := by
  have htest : (c ^^^ y).getLsbD 7 = true ↔ c.getLsbD 7 ≠ y.getLsbD 7 := by simp
  have hcancel : (c ^^^ y) <<< 1 ^^^ y <<< 1 = c <<< 1 := by rw [BitVec.shiftLeft_xor_distrib, xor_cancel_right]
  unfold crc8FeedBit crc8Shift
  by_cases hbit : c.getLsbD 7 = y.getLsbD 7
  · rw [if_pos hbit, if_neg (mt htest.mp (not_not.mpr hbit)), hcancel]
  · rw [if_neg hbit, if_pos (htest.mpr hbit), BitVec.xor_assoc, BitVec.xor_comm Config.crc8Poly, ← BitVec.xor_assoc,
      hcancel]

/-- After `n` data bits the register is that of the step after `n` iterations, without the bits not yet fed. -/
theorem crc8FeedBit_foldl (c b : Byte) {n : Nat} (hn : n ≤ 8) :
    ((List.range n).map (7 - ·)).foldl (fun c k => crc8FeedBit c (b.getLsbD k)) c =
      crc8Shift^[n] (c ^^^ b) ^^^ b <<< n := by
  induction n with
  | zero => simp
  | succ n ih =>
    have hnext : b.getLsbD (7 - n) = (b <<< n).getLsbD 7 := by
      rw [BitVec.getLsbD_shiftLeft]
      simp [-BitVec.getLsbD_eq_getElem, show n ≤ 7 by omega]
    simp only [List.range_succ, List.map_append, List.foldl_append, ih (by omega), List.map_cons, List.map_nil,
      List.foldl_cons, List.foldl_nil]
    rw [hnext, crc8FeedBit_getLsbD, xor_cancel_right, BitVec.shiftLeft_add, Function.iterate_succ_apply']

/-! ## The CRC-16 -/

@[simp] theorem crc16_nil : crc16 [] = 0xFFFF := rfl

theorem crc16_append (s t : List Byte) : crc16 (s ++ t) = t.foldl crc16Step (crc16 s) := List.foldl_append

@[simp] theorem crc16_concat (s : List Byte) (b : Byte) : crc16 (s ++ [b]) = crc16Step (crc16 s) b :=
  crc16_append s [b]

/-- Bit 15 of the polynomial is set, and the shift leaves bit 15 clear: it tells the bit that was tested. -/
theorem crc16Shift_getLsbD_top (c : U16) : (crc16Shift c).getLsbD 15 = c.getLsbD 0 := by
  unfold crc16Shift
  split
  next hbit => simp [hbit]
  next hbit => simpa using hbit

theorem crc16Shift_injective : Injective crc16Shift := by
  intro c d heq
  have hlow : c.getLsbD 0 = d.getLsbD 0 := by rw [← crc16Shift_getLsbD_top, heq, crc16Shift_getLsbD_top]
  have hshift : c >>> 1 = d >>> 1 := by
    unfold crc16Shift at heq
    rw [hlow] at heq
    split at heq
    next => exact (BitVec.xor_left_inj _).mp heq
    next => exact heq
  refine BitVec.eq_of_getLsbD_eq fun i _ => ?_
  cases i with
  | zero => exact hlow
  | succ i =>
    have hbit := congrArg (BitVec.getLsbD · i) hshift
    simpa [Nat.add_comm] using hbit

theorem crc16Step_injective (b : Byte) : Injective (crc16Step · b) :=
  (crc16Shift_injective.iterate 8).comp (xor_left_involutive _).injective

theorem crc16Step_injective_byte (c : U16) : Injective (crc16Step c) := by
  have hwide : Injective (BitVec.setWidth 16 : Byte → U16) := fun x y h => by
    simpa using congrArg (BitVec.setWidth 8) h
  exact (crc16Shift_injective.iterate 8).comp ((xor_right_involutive c).injective.comp hwide)

/-- A byte above clear bits is shifted down without meeting the polynomial. -/
theorem crc16Shift_iterate_shiftLeft (b : Byte) {n : Nat} (hn : n ≤ 8) :
    crc16Shift^[n] (b.setWidth 16 <<< n) = b.setWidth 16 := by
  induction n with
  | zero => simp
  | succ n ih =>
    have hclear : ¬ (b.setWidth 16 <<< (n + 1)).getLsbD 0 = true := by simp
    have hdown : b.setWidth 16 <<< (n + 1) >>> 1 = b.setWidth 16 <<< n := by
      refine BitVec.eq_of_getLsbD_eq fun i hi => ?_
      rw [BitVec.getLsbD_ushiftRight, BitVec.getLsbD_shiftLeft, BitVec.getLsbD_shiftLeft, Nat.add_comm 1 i,
        Nat.add_sub_add_right]
      by_cases htop : i = 15
      · simp [htop, show 8 ≤ 15 - n by omega]
      · simp [show i + 1 < 16 by omega, hi]
    rw [Function.iterate_succ_apply, crc16Shift, if_neg hclear, hdown, ih (by omega)]

/-- The register is cleared by the byte that it holds alone, and by no other. -/
theorem crc16Step_eq_zero_iff {c : U16} {b : Byte} : crc16Step c b = 0x0000 ↔ c = b.setWidth 16 := by
  have hzero : crc16Shift^[8] 0x0000 = 0x0000 := Function.iterate_fixed rfl 8
  conv_lhs => rw [← hzero]
  exact (crc16Shift_injective.iterate 8).eq_iff.trans BitVec.xor_eq_zero_iff

/-- Fed its own low byte, a word leaves its high byte alone in the register, and no other word leaves that. -/
theorem crc16Step_eq_setWidth_iff {c : U16} {h l : Byte} : crc16Step c l = h.setWidth 16 ↔ c = word16 h l := by
  have hword : word16 h l = h.setWidth 16 <<< 8 ^^^ l.setWidth 16 := by
    ext i _
    by_cases hlow : i < 8
    · simp [word16, hlow]
    · simp [word16, hlow, show 8 ≤ i by omega]
  calc crc16Step c l = h.setWidth 16
      ↔ crc16Shift^[8] (c ^^^ l.setWidth 16) = crc16Shift^[8] (h.setWidth 16 <<< 8) := by
        rw [crc16Shift_iterate_shiftLeft h (Nat.le_refl 8), crc16Step]
    _ ↔ c ^^^ l.setWidth 16 = h.setWidth 16 <<< 8 := (crc16Shift_injective.iterate 8).eq_iff
    _ ↔ c = word16 h l := by rw [xor_eq_iff_left_eq, hword]

theorem crc16_append_le16_eq_zero_iff (m : List Byte) (k : U16) : crc16 (m ++ le16 k) = 0x0000 ↔ k = crc16 m := by
  calc crc16 (m ++ le16 k) = 0x0000
      ↔ crc16Step (crc16Step (crc16 m) (lo k)) (hi k) = 0x0000 := by rw [crc16_append]; rfl
    _ ↔ crc16 m = word16 (hi k) (lo k) := by rw [crc16Step_eq_zero_iff, crc16Step_eq_setWidth_iff]
    _ ↔ k = crc16 m := by rw [word16_hi_lo, eq_comm]

/-! ## What the checksums detect -/

/-- Settles O19: the step is injective in the register and in the byte, and a register fed to itself is cleared. -/
theorem crc8DetectsEveryOneByteChange : Obligations.Crc8DetectsEveryOneByteChange := by
  unfold Obligations.Crc8DetectsEveryOneByteChange
  refine ⟨fun m => ?_, fun b => (crc8Step_injective b).bijective_of_finite, fun before after x y hxy => ?_,
    crc8_replicate_zero⟩
  · rw [crc8_concat, crc8Step_self]
  · exact foldl_ne_of_byte_ne crc8Step_injective crc8Step_injective_byte _ before after hxy

/-- Settles O20: the residue is 0 for one word only, and the step is injective in the register and in the byte. -/
theorem crc16DetectsEveryOneByteChange : Obligations.Crc16DetectsEveryOneByteChange := by
  unfold Obligations.Crc16DetectsEveryOneByteChange
  refine ⟨fun m => ?_, crc16_append_le16_eq_zero_iff, fun b => (crc16Step_injective b).bijective_of_finite,
    fun before after x y hxy => ?_⟩
  · exact (crc16_append_le16_eq_zero_iff m _).mpr rfl
  · exact foldl_ne_of_byte_ne crc16Step_injective crc16Step_injective_byte _ before after hxy

/-- Settles O21: after the eighth bit no data bit is left in the register. -/
theorem crc8BitSerialFormulationAgrees : Obligations.Crc8BitSerialFormulationAgrees := by
  unfold Obligations.Crc8BitSerialFormulationAgrees
  intro c b
  calc crc8BitSerial c b = crc8Shift^[8] (c ^^^ b) ^^^ b <<< 8 := crc8FeedBit_foldl c b (Nat.le_refl 8)
    _ = crc8Step c b := by rw [BitVec.shiftLeft_eq_zero (Nat.le_refl 8), BitVec.xor_zero, crc8Step]

/-- Settles O17: an appended byte is one more step of the fold; the closed values are evaluated. -/
theorem crc8IsTheFoldOfItsStep : Obligations.Crc8IsTheFoldOfItsStep := by
  unfold Obligations.Crc8IsTheFoldOfItsStep
  exact ⟨crc8_nil, crc8_concat, by decide +kernel, by decide, by decide⟩

/-- Settles O18: an appended byte is one more step of the fold, and `le16` is the wire order; the closed values are
evaluated. -/
theorem crc16IsTheFoldOfItsStep : Obligations.Crc16IsTheFoldOfItsStep := by
  unfold Obligations.Crc16IsTheFoldOfItsStep
  exact ⟨crc16_nil, crc16_concat, by decide +kernel, by decide, fun _ _ _ => rfl⟩

/-! ## The CRC unit -/

theorem exec_crc8Clr (s : State) :
    exec .crc8Clr s = .next ((s.withCrc { s.crc with c8 := Config.crc8Init }).succeed .none) := rfl

theorem exec_crc8Upd (b : Byte) (s : State) :
    exec (.crc8Upd b) s = .next ((s.withCrc { s.crc with c8 := crc8Step s.crc.c8 b }).succeed .none) := rfl

theorem exec_crc8Rd (s : State) : exec .crc8Rd s = .next (s.succeed (.byte s.crc.c8)) := rfl

theorem exec_crc16Clr (s : State) :
    exec .crc16Clr s = .next ((s.withCrc { s.crc with c16 := Config.crc16Init }).succeed .none) := rfl

theorem exec_crc16Upd (b : Byte) (s : State) :
    exec (.crc16Upd b) s = .next ((s.withCrc { s.crc with c16 := crc16Step s.crc.c16 b }).succeed .none) := rfl

theorem exec_crc16Rd (s : State) : exec .crc16Rd s = .next (s.succeed (.word s.crc.c16)) := rfl

/-- The updates of a sequence fold the step over it, from whatever `c8` held, and write nothing else (R129). -/
theorem execAll_crc8Upd (bytes : List Byte) (s : State) :
    ∃ r, execAll (bytes.map .crc8Upd) s =
      .next { s with crc := { s.crc with c8 := bytes.foldl crc8Step s.crc.c8 }, reply := r } := by
  induction bytes generalizing s with
  | nil => exact ⟨s.reply, rfl⟩
  | cons b bytes ih =>
    obtain ⟨r, hr⟩ := ih ((s.withCrc { s.crc with c8 := crc8Step s.crc.c8 b }).succeed .none)
    exact ⟨r, by rw [List.map_cons, execAll, exec_crc8Upd]; exact hr⟩

/-- After `CRC8.CLR` they leave the CRC-8 of the sequence in `c8` (R129). -/
theorem execAll_crc8Clr_crc8Upd (bytes : List Byte) (s : State) :
    ∃ r, execAll (.crc8Clr :: bytes.map .crc8Upd) s =
      .next { s with crc := { s.crc with c8 := crc8 bytes }, reply := r } := by
  rw [execAll, exec_crc8Clr]
  exact execAll_crc8Upd bytes _

/-- The updates of a sequence fold the step over it, from whatever `c16` held, and write nothing else (R132). -/
theorem execAll_crc16Upd (bytes : List Byte) (s : State) :
    ∃ r, execAll (bytes.map .crc16Upd) s =
      .next { s with crc := { s.crc with c16 := bytes.foldl crc16Step s.crc.c16 }, reply := r } := by
  induction bytes generalizing s with
  | nil => exact ⟨s.reply, rfl⟩
  | cons b bytes ih =>
    obtain ⟨r, hr⟩ := ih ((s.withCrc { s.crc with c16 := crc16Step s.crc.c16 b }).succeed .none)
    exact ⟨r, by rw [List.map_cons, execAll, exec_crc16Upd]; exact hr⟩

/-- After `CRC16.CLR` they leave the CRC-16 of the sequence in `c16` (R132). -/
theorem execAll_crc16Clr_crc16Upd (bytes : List Byte) (s : State) :
    ∃ r, execAll (.crc16Clr :: bytes.map .crc16Upd) s =
      .next { s with crc := { s.crc with c16 := crc16 bytes }, reply := r } := by
  rw [execAll, exec_crc16Clr]
  exact execAll_crc16Upd bytes _

/-- Settles O14: by induction over the sequence, in `execAll_crc8Upd`. -/
theorem crc8UpdateAccumulates : Obligations.Crc8UpdateAccumulates := by
  unfold Obligations.Crc8UpdateAccumulates
  refine ⟨fun _ => rfl, exec_crc8Upd, fun bytes s => ?_, fun bytes s => ?_, rfl, by decide, by decide, by decide⟩
  · obtain ⟨r, hr⟩ := execAll_crc8Upd bytes s
    exact ⟨_, hr, rfl⟩
  · obtain ⟨r, hr⟩ := execAll_crc8Clr_crc8Upd bytes s
    exact ⟨_, hr, rfl, rfl⟩

/-- Settles O16: by induction over the sequence, in `execAll_crc16Upd`. -/
theorem crc16UpdateAccumulates : Obligations.Crc16UpdateAccumulates := by
  unfold Obligations.Crc16UpdateAccumulates
  refine ⟨fun _ => rfl, exec_crc16Upd, fun bytes s => ?_, fun bytes s => ?_, by decide, by decide, by decide, by decide,
    by decide, by decide⟩
  · obtain ⟨r, hr⟩ := execAll_crc16Upd bytes s
    exact ⟨_, hr, rfl⟩
  · obtain ⟨r, hr⟩ := execAll_crc16Clr_crc16Upd bytes s
    exact ⟨_, hr, rfl, rfl⟩

/-- Settles O13: what `CRC8.RD` returns in R130's example is the CRC-8 of the frame's header and payload. -/
theorem crc8ClearAndRead : Obligations.Crc8ClearAndRead := by
  unfold Obligations.Crc8ClearAndRead
  refine ⟨rfl, rfl, exec_crc8Clr, exec_crc8Rd, fun s => ?_⟩
  obtain ⟨r, hr⟩ := execAll_crc8Clr_crc8Upd [0x01, 0x01, 0x00, 0x01, 0x10] s
  have hvalue : crc8 [0x01, 0x01, 0x00, 0x01, 0x10] = 0xFF := by decide +kernel
  rw [hvalue] at hr
  exact ⟨_, execAll_append (js := [.crc8Rd]) hr, rfl⟩

/-- Settles O15: each clause is the equation of one operation. -/
theorem crc16ClearAndRead : Obligations.Crc16ClearAndRead := by
  unfold Obligations.Crc16ClearAndRead
  exact ⟨rfl, rfl, exec_crc16Clr, exec_crc16Rd, _, exec_crc16Rd State.reset, rfl⟩

end Sys2Proof.Machine

/-! # The Modbus codec: the four steps, the validations, the whole call, progress

PROOFS of the statements about the Modbus codec (spec/41_modbus.md). `validate` is read through its three tests, each
named below; `MB.READ` is read through `responseArrived`, what it has sent and accumulated before it ends, and its
three ends, each with an equation of its own: the failed write, the timeout, the check. -/

namespace Sys2Proof

/-! ## Only an empty port offers no operation -/

theorem andThen_ne_noOperation {α β : Type} {first : Parse α} {second : α → List Byte → Parse β}
    (hfirst : first ≠ .error .noOperation) (hsecond : ∀ a rest, second a rest ≠ .error .noOperation) :
    andThen first second ≠ .error .noOperation := by
  cases first with
  | ok read => exact hsecond read.1 read.2
  | error e => exact fun h => hfirst (congrArg Except.error (Except.error.inj h))

theorem takeByte_ne_noOperation : ∀ bytes, takeByte bytes ≠ .error .noOperation
  | [] | _ :: _ => nofun

theorem takeU16_ne_noOperation : ∀ bytes, takeU16 bytes ≠ .error .noOperation
  | [] | [_] | _ :: _ :: _ => nofun

theorem takeNat_ne_noOperation : ∀ k bytes, takeNat k bytes ≠ .error .noOperation
  | 0, _ | _ + 1, [] => nofun
  | k + 1, _ :: bytes => andThen_ne_noOperation (takeNat_ne_noOperation k bytes) nofun

theorem takeBytes_ne_noOperation (bytes : List Byte) : takeBytes bytes ≠ .error .noOperation := by
  refine andThen_ne_noOperation (takeNat_ne_noOperation 4 bytes) fun n rest => ?_
  split <;> nofun

theorem takeFields_ne_noOperation (n : Nat) (bytes : List Byte) : takeFields n bytes ≠ .error .noOperation := by
  induction n, bytes using takeFields.induct with
  | case1 => nofun
  | case2 n flag b0 b1 b2 b3 bytes hflag ih =>
    rw [takeFields, if_pos hflag]
    exact andThen_ne_noOperation ih nofun
  | case3 n flag b0 b1 b2 b3 bytes hflag =>
    rw [takeFields, if_neg hflag]
    nofun
  | case4 n bytes hshort =>
    rw [takeFields]
    · nofun
    · exact hshort

theorem decodeOperands_ne_noOperation (op : Byte) (bytes : List Byte) :
    decodeOperands op bytes ≠ .error .noOperation := by
  unfold decodeOperands
  split
  case h_1 | h_3 | h_4 | h_6 | h_9 | h_10 | h_16 | h_17 => nofun
  case h_2 | h_5 | h_8 | h_14 | h_15 => exact andThen_ne_noOperation (takeByte_ne_noOperation bytes) nofun
  case h_7 =>
    exact andThen_ne_noOperation (takeByte_ne_noOperation bytes) fun _ rest =>
      andThen_ne_noOperation (takeU16_ne_noOperation rest) fun _ rest =>
      andThen_ne_noOperation (takeU16_ne_noOperation rest) nofun
  case h_11 =>
    exact andThen_ne_noOperation (takeByte_ne_noOperation bytes) fun _ rest =>
      andThen_ne_noOperation (takeByte_ne_noOperation rest) fun _ rest =>
      andThen_ne_noOperation (takeBytes_ne_noOperation rest) nofun
  case h_12 =>
    exact andThen_ne_noOperation (takeNat_ne_noOperation 8 bytes) fun _ rest =>
      andThen_ne_noOperation (takeByte_ne_noOperation rest) fun _ rest =>
      andThen_ne_noOperation (takeFields_ne_noOperation _ rest) nofun
  case h_13 =>
    exact andThen_ne_noOperation (takeNat_ne_noOperation 8 bytes) fun _ rest =>
      andThen_ne_noOperation (takeBytes_ne_noOperation rest) nofun

/-- The decoder finds no operation exactly at an empty port. -/
theorem decode_eq_noOperation_iff : ∀ {bytes : List Byte}, decode bytes = .error .noOperation ↔ bytes = []
  | [] => iff_of_true rfl rfl
  | op :: bytes => iff_of_false (decodeOperands_ne_noOperation op bytes) nofun

end Sys2Proof

namespace Sys2Proof.Machine

/-! ## Where the steps are refused -/

/-- A guarded request is refused while a transaction is in flight (R141). -/
theorem guardRequest_of_recv {count : U16} {run : State → State} {s : State} (hrecv : s.mb.state = .recv) :
    guardRequest count run s = .refused .transactionInFlight := if_pos hrecv

/-- In IDLE a guarded request is refused above the maximum (R141). -/
theorem guardRequest_of_aboveMax {count : U16} {run : State → State} {s : State} (hidle : s.mb.state = .idle)
    (habove : s.par.mbCountMax < count.toNat) : guardRequest count run s = .refused .countAboveMax := by
  simp [guardRequest, hidle, habove]

/-- In IDLE, and once all bytes are there, `MB.RXB` is refused (R145). -/
theorem offerByte_of_notEnabled {b : Byte} {s : State} (h : s.mb.state = .idle ∨ s.mb.cnt = s.mb.need) :
    offerByte b s = .refused .receiveNotEnabled := if_pos h

/-- In IDLE, and once all bytes are there, `MB.TMO` is refused (R147). -/
theorem execMbTmo_of_notEnabled {s : State} (h : s.mb.state = .idle ∨ s.mb.cnt = s.mb.need) :
    execMbTmo s = .refused .timeoutNotEnabled := if_pos h

/-- In IDLE, and while bytes are missing, `MB.CHK` is refused (R150). -/
theorem execMbChk_of_notEnabled {s : State} (h : s.mb.state = .idle ∨ s.mb.cnt < s.mb.need) :
    execMbChk s = .refused .checkNotEnabled := if_pos h

/-- The only two refusals of a guarded request (R141). -/
theorem guardRequest_refused {count : U16} {run : State → State} {s : State} {r : Refusal}
    (h : guardRequest count run s = .refused r) : r = .transactionInFlight ∨ r = .countAboveMax := by
  unfold guardRequest at h
  split at h
  · cases h; exact .inl rfl
  · split at h
    · cases h; exact .inr rfl
    · cases h

/-- The only refusal of a guarded mask operation (R176, R180). -/
theorem guardMask_refused {mask : Nat} {run : State → State} {s : State} {r : Refusal}
    (h : guardMask mask run s = .refused r) : r = .maskTooWide := by
  unfold guardMask at h
  split at h <;> cases h
  rfl

/-- A test that is refused for one reason alone is refused for that reason. -/
theorem refused_of_ite {c : Prop} [Decidable c] {reason r : Refusal} {t : State}
    (h : (if c then .refused reason else .next t : Outcome) = .refused r) : r = reason := by
  split at h <;> cases h
  rfl

/-- Every refusal of R82's column 'refused when' and of the wire formats' rows. -/
def preconditionRefusals : List Refusal :=
  [.transactionInFlight, .countAboveMax, .receiveNotEnabled, .timeoutNotEnabled, .checkNotEnabled, .maskTooWide,
    .noSuchCounter, .notOnWire]

/-- An instruction is refused only because its own precondition does not hold. -/
theorem exec_refused {s : State} {r : Refusal} :
    ∀ {i : Instr}, exec i s = .refused r → r ∈ preconditionRefusals
  | .mbReq _ _ _, h | .mbRead _ _ _ _, h | .mbReqAdu _ _ _, h => by
    rcases guardRequest_refused h with rfl | rfl <;> decide
  | .mbRxb _, h | .mbTmo, h | .mbChk, h | .mbRspAdu _ _, h | .linkFrame _ _ _, h => by
    rw [refused_of_ite h]
    decide
  | .fbPack _ _ _, h | .fieldBlock _ _ _, h => by
    rw [guardMask_refused h]
    decide
  | .fbUnpack _ _, h => by
    unfold exec execFbUnpack at h
    rw [guardMask_refused h]
    decide
  | .lpRdc n, h => by
    match n, h with
    | _ + 3, rfl => decide

/-! ## The step at an empty port -/

theorem step_of_port_nil {s : State} (hport : s.port = []) :
    step s = .refused (if s.mb.state = .idle then .noOperation else .unfinishedRun) :=
  step_of_decode_error (decode_eq_noOperation_iff.mpr hport)

/-- The two refusals that R280 tells apart come from an empty port only: no precondition and no rejected operation gives
them. -/
theorem port_nil_of_step_refused {s : State} {r : Refusal} (hr : r = .noOperation ∨ r = .unfinishedRun)
    (h : step s = .refused r) : s.port = [] := by
  cases hdecode : decode s.port with
  | ok read =>
    rw [step_of_decode hdecode] at h
    have hmem := exec_refused h
    rcases hr with rfl | rfl <;> exact absurd hmem (by decide)
  | error e =>
    rw [step_of_decode_error hdecode] at h
    cases e with
    | noOperation => exact decode_eq_noOperation_iff.mp hdecode
    | unknownOp | truncated | badFlag =>
      cases h
      rcases hr with hr | hr <;> cases hr

/-- The run is over exactly in a quiescent state (R280). -/
theorem step_noOperation_iff {s : State} : step s = .refused .noOperation ↔ s.Quiescent := by
  constructor
  · intro h
    have hport := port_nil_of_step_refused (.inl rfl) h
    rw [step_of_port_nil hport] at h
    split at h
    next hidle => exact ⟨hport, hidle⟩
    next => cases h
  · rintro ⟨hport, hidle⟩
    rw [step_of_port_nil hport, if_pos hidle]

/-- The run is unfinished exactly at an empty port with a transaction in flight (R280). -/
theorem step_unfinishedRun_iff {s : State} : step s = .refused .unfinishedRun ↔ s.port = [] ∧ s.mb.state = .recv := by
  constructor
  · intro h
    have hport := port_nil_of_step_refused (.inr rfl) h
    rw [step_of_port_nil hport] at h
    cases hstate : s.mb.state with
    | recv => exact ⟨hport, rfl⟩
    | idle =>
      rw [if_pos hstate] at h
      cases h
  · rintro ⟨hport, hrecv⟩
    rw [step_of_port_nil hport, hrecv]
    rfl

/-- Settles O35: an empty port is told by its refusal, and the invariant leaves the two cases of `mb_cnt`. -/
theorem transactionInFlightHasAStep : Obligations.TransactionInFlightHasAStep := by
  unfold Obligations.TransactionInFlightHasAStep
  refine ⟨fun s => step_noOperation_iff, fun s => step_unfinishedRun_iff, fun s hsound hrecv => ?_⟩
  obtain ⟨-, ⟨-, hcnt, -⟩, -⟩ := hsound
  rcases Nat.lt_or_eq_of_le hcnt with hmissing | hfull
  · exact .inl ⟨hmissing, fun b => ⟨_, offerByte_of_recv hrecv hmissing.ne⟩,
      ⟨_, execMbTmo_of_recv hrecv hmissing.ne⟩, execMbChk_of_notEnabled (.inr hmissing)⟩
  · exact .inr ⟨hfull, ⟨_, execMbChk_of_recv hrecv hfull.ge⟩, execMbTmo_of_notEnabled (.inr hfull),
      fun b => offerByte_of_notEnabled (.inr hfull)⟩

/-! ## The request, the byte, the timeout -/

/-- Nothing is written outside the codec: the state is the old one but for the codec, its stream and the reply. -/
theorem WritesOnlyModbus.eq {s t : State} (h : WritesOnlyModbus s t) :
    t = { s with mb := t.mb, mbTx := t.mbTx, reply := t.reply } := by
  obtain ⟨hcrc, hlp, hport, hlinkTx, hemits, hpar⟩ := h
  rw [← hcrc, ← hlp, ← hport, ← hlinkTx, ← hemits, ← hpar]

/-- A request whose write fails has sent a part of the ADU's eight bytes, whatever number is drawn (R142). -/
theorem sendRequest_of_writeFails {s : State} (slave : Byte) (addr count : U16)
    (hfails : Config.writeFails s.mb.draws = true) :
    ∃ sent, sent ≤ 8 ∧ sendRequest slave addr count s =
      ((s.sendModbus ((requestAdu slave addr count).take sent)).withMb
        { s.mb with draws := s.mb.draws + 1 }).fail .errWrite .none := by
  have hpart : (requestAdu slave addr count).take (Config.writtenBytes s.mb.draws) =
      (requestAdu slave addr count).take (min (Config.writtenBytes s.mb.draws) 8) := List.take_eq_take_min
  exact ⟨_, Nat.min_le_right .., by rw [← hpart, sendRequest, if_pos hfails]⟩

/-- A request whose write does not fail sends the ADU and starts the transaction (R140). -/
theorem sendRequest_of_written {s : State} (slave : Byte) (addr count : U16)
    (hwritten : Config.writeFails s.mb.draws ≠ true) :
    sendRequest slave addr count s =
      ((s.sendModbus (requestAdu slave addr count)).withMb (s.mb.start slave count)).succeed .none :=
  if_neg hwritten

/-- Settles O22: both outcomes of the write, on the whole ADU or on a part of it. -/
theorem requestSendsItsAduAndStartsTheTransaction : Obligations.RequestSendsItsAduAndStartsTheTransaction := by
  unfold Obligations.RequestSendsItsAduAndStartsTheTransaction
  intro s slave addr count hidle hmax
  refine ⟨sendRequest slave addr count s, guardRequest_of_idle hidle hmax, guardRequest_of_idle hidle hmax, ?_,
    (sendRequest_writesOnlyModbus slave addr count s).eq⟩
  dsimp only
  split
  next hfails =>
    obtain ⟨sent, hsent, heq⟩ := sendRequest_of_writeFails slave addr count hfails
    rw [heq]
    exact ⟨⟨sent, hsent, rfl⟩, rfl, rfl⟩
  next hwritten =>
    rw [sendRequest_of_written slave addr count hwritten]
    exact ⟨rfl, rfl, rfl⟩

/-- Settles O23: the two tests of the precondition, and the range of a 16-bit count. -/
theorem requestIsRefusedInFlightOrAboveTheMaximum : Obligations.RequestIsRefusedInFlightOrAboveTheMaximum := by
  unfold Obligations.RequestIsRefusedInFlightOrAboveTheMaximum
  exact ⟨fun _ _ _ _ hrecv => guardRequest_of_recv hrecv,
    fun _ _ _ _ hidle habove => guardRequest_of_aboveMax hidle habove,
    fun count => Nat.not_lt.mpr (Nat.le_of_lt_succ count.isLt)⟩

/-- Settles O24: `MB.RXB` looks at the registers and never at its byte. -/
theorem receivedByteIsAppended : Obligations.ReceivedByteIsAppended := by
  unfold Obligations.ReceivedByteIsAppended
  exact fun s b => ⟨rfl, fun hrecv hcnt => offerByte_of_recv hrecv hcnt, offerByte_of_notEnabled⟩

/-- Settles O26: an enabled timeout ends the transaction, and it is enabled where bytes are missing. -/
theorem timeoutFailsAnIncompleteTransaction : Obligations.TimeoutFailsAnIncompleteTransaction := by
  unfold Obligations.TimeoutFailsAnIncompleteTransaction
  exact fun s => ⟨fun hrecv hcnt => ⟨expire s, execMbTmo_of_recv hrecv hcnt, rfl, rfl⟩, execMbTmo_of_notEnabled⟩

/-! ## The three validations -/

/-- The last two bytes of the response are not the CRC-16 of the others, low byte first. -/
abbrev ModbusPort.CrcFails (m : ModbusPort) : Prop :=
  byteAt m.buf (m.need - 2) ≠ lo (crc16 (m.buf.take (m.need - 2))) ∨
    byteAt m.buf (m.need - 1) ≠ hi (crc16 (m.buf.take (m.need - 2)))

/-- The response does not echo the slave and the function code of the request. -/
abbrev ModbusPort.EchoFails (m : ModbusPort) : Prop :=
  byteAt m.buf 0 ≠ m.slave ∨ byteAt m.buf 1 ≠ Config.mbFunc

/-- The byte count of the response is not that of the words asked for. -/
abbrev ModbusPort.LengthFails (m : ModbusPort) : Prop := (byteAt m.buf 2).toNat ≠ 2 * m.count.toNat

section
variable {m : ModbusPort}

theorem validate_of_crcFails (hcrc : m.CrcFails) : validate m = some .errCrc16 := if_pos hcrc

theorem validate_of_echoFails (hcrc : ¬ m.CrcFails) (hecho : m.EchoFails) : validate m = some .errAddrFunc :=
  (if_neg hcrc).trans (if_pos hecho)

theorem validate_of_lengthFails (hcrc : ¬ m.CrcFails) (hecho : ¬ m.EchoFails) (hlength : m.LengthFails) :
    validate m = some .errLength :=
  (if_neg hcrc).trans ((if_neg hecho).trans (if_pos hlength))

theorem validate_of_passes (hcrc : ¬ m.CrcFails) (hecho : ¬ m.EchoFails) (hlength : ¬ m.LengthFails) :
    validate m = none :=
  (if_neg hcrc).trans ((if_neg hecho).trans (if_neg hlength))

/-- A wrong byte count never passes, whichever validation reports the response (R150). -/
theorem validate_ne_none_of_lengthFails (hlength : m.LengthFails) : validate m ≠ none := by
  by_cases hcrc : m.CrcFails
  · rw [validate_of_crcFails hcrc]
    nofun
  · by_cases hecho : m.EchoFails
    · rw [validate_of_echoFails hcrc hecho]
      nofun
    · rw [validate_of_lengthFails hcrc hecho hlength]
      nofun

/-- The kinds of failure that a check can report (R150). -/
theorem validate_kind {kind : ErrKind} (h : validate m = some kind) :
    kind = .errCrc16 ∨ kind = .errAddrFunc ∨ kind = .errLength := by
  by_cases hcrc : m.CrcFails
  · cases (validate_of_crcFails hcrc).symm.trans h
    exact .inl rfl
  · by_cases hecho : m.EchoFails
    · cases (validate_of_echoFails hcrc hecho).symm.trans h
      exact .inr (.inl rfl)
    · by_cases hlength : m.LengthFails
      · cases (validate_of_lengthFails hcrc hecho hlength).symm.trans h
        exact .inr (.inr rfl)
      · cases (validate_of_passes hcrc hecho hlength).symm.trans h

end

theorem verdict_of_failed {s : State} {kind : ErrKind} (h : validate s.mb = some kind) :
    verdict s = (s.withMb s.mb.finish).fail kind .none := by
  rw [verdict, h]

theorem verdict_of_passed {s : State} (h : validate s.mb = none) :
    verdict s = (s.withMb s.mb.finish).succeed (.words (responseWords s.mb)) := by
  rw [verdict, h]

/-- A check ends the transaction whatever its verdict (R150). -/
theorem verdict_state (s : State) : (verdict s).mb.state = .idle := by
  rcases verdict_cases s with ⟨_, -, heq⟩ | ⟨-, heq⟩ <;> rw [heq] <;> rfl

/-- A check writes the codec and the reply. -/
theorem verdict_eq (s : State) : verdict s = { s with mb := (verdict s).mb, reply := (verdict s).reply } := by
  rcases verdict_cases s with ⟨_, -, heq⟩ | ⟨-, heq⟩ <;> rw [heq] <;> rfl

theorem word16_toNat (h l : Byte) : (word16 h l).toNat = 256 * h.toNat + l.toNat := by
  have hlow : l.toNat < 2 ^ 8 := l.isLt
  have hhigh : h.toNat < 2 ^ 8 := h.isLt
  have hshift : h.toNat <<< 8 % 2 ^ 16 = h.toNat <<< 8 := Nat.mod_eq_of_lt (by rw [Nat.shiftLeft_eq]; omega)
  have hwideHigh : h.toNat % 2 ^ 16 = h.toNat := Nat.mod_eq_of_lt (by omega)
  have hwideLow : l.toNat % 2 ^ 16 = l.toNat := Nat.mod_eq_of_lt (by omega)
  rw [word16, BitVec.toNat_or, BitVec.toNat_shiftLeft, BitVec.toNat_setWidth, BitVec.toNat_setWidth, hwideHigh,
    hwideLow, hshift, ← Nat.shiftLeft_add_eq_or_of_lt hlow, Nat.shiftLeft_eq]
  omega

/-- Word number `i` of a response stands at offset `3 + 2 * i`, high byte first (R150). -/
theorem responseWords_getElem? {m : ModbusPort} {i : Nat} {w : U16} (h : (responseWords m)[i]? = some w) :
    w.toNat = 256 * (byteAt m.buf (3 + 2 * i)).toNat + (byteAt m.buf (4 + 2 * i)).toNat := by
  rw [responseWords, List.getElem?_map] at h
  obtain ⟨j, hj, rfl⟩ := Option.map_eq_some_iff.mp h
  obtain ⟨hlt, rfl⟩ := List.getElem?_eq_some_iff.mp hj
  rw [List.getElem_range, word16_toNat]

/-- Settles O27: the three validations in their order, and what is delivered where none fails. -/
theorem checkReportsTheFirstFailedValidation : Obligations.CheckReportsTheFirstFailedValidation := by
  unfold Obligations.CheckReportsTheFirstFailedValidation
  refine ⟨rfl, fun s => ⟨fun hrecv hneed => ?_, execMbChk_of_notEnabled⟩⟩
  refine ⟨verdict s, execMbChk_of_recv hrecv hneed, verdict_state s, verdict_eq s, ?_⟩
  dsimp only
  split
  next hcrc => rw [verdict_of_failed (validate_of_crcFails hcrc)]; rfl
  next hcrc =>
    split
    next hecho => rw [verdict_of_failed (validate_of_echoFails hcrc hecho)]; rfl
    next hecho =>
      split
      next hlength => rw [verdict_of_failed (validate_of_lengthFails hcrc hecho hlength)]; rfl
      next hlength =>
        rw [verdict_of_passed (validate_of_passes hcrc hecho hlength)]
        exact ⟨responseWords s.mb, rfl, responseWords_length s.mb, fun _ _ hw => responseWords_getElem? hw⟩

/-- A byte cannot say the byte count of 128 words or more (R155). -/
theorem ModbusPort.lengthFails_of_largeCount {m : ModbusPort} (hlarge : 128 ≤ m.count.toNat) : m.LengthFails := by
  have hbyte : (byteAt m.buf 2).toNat < 2 ^ 8 := (byteAt m.buf 2).isLt
  simp only [ModbusPort.LengthFails]
  omega

/-- Settles O30: the byte count of a large request is never right, so the third validation fails at the latest. -/
theorem largeCountsNeverSucceed : Obligations.LargeCountsNeverSucceed := by
  unfold Obligations.LargeCountsNeverSucceed
  intro s hrecv hneed hlarge
  have hlength := ModbusPort.lengthFails_of_largeCount hlarge
  obtain ⟨kind, hkind⟩ := Option.ne_none_iff_exists'.mp (validate_ne_none_of_lengthFails hlength)
  refine ⟨verdict s, execMbChk_of_recv hrecv hneed, ?_, fun hlo hhi hslave hfunc => ?_⟩
  · rw [verdict_of_failed hkind]
    nofun
  · have hcrc : ¬ s.mb.CrcFails := not_or.mpr ⟨not_not.mpr hlo, not_not.mpr hhi⟩
    have hecho : ¬ s.mb.EchoFails := not_or.mpr ⟨not_not.mpr hslave, not_not.mpr hfunc⟩
    rw [verdict_of_failed (validate_of_lengthFails hcrc hecho hlength)]
    rfl

/-! ## A response with one changed byte -/

/-- The last two bytes of a sequence, put behind the others, give it back. -/
theorem take_append_last_two {bytes : List Byte} {n : Nat} (hlen : bytes.length = n + 2) :
    bytes = bytes.take n ++ [byteAt bytes n, byteAt bytes (n + 1)] := by
  have hlast : bytes.drop n = [bytes[n], bytes[n + 1]] := by
    rw [List.drop_eq_getElem_cons (by omega), List.drop_eq_getElem_cons (by omega),
      List.drop_eq_nil_of_le hlen.le]
  have hfirst : byteAt bytes n = bytes[n] := List.getD_eq_getElem ..
  have hsecond : byteAt bytes (n + 1) = bytes[n + 1] := List.getD_eq_getElem ..
  rw [hfirst, hsecond, ← hlast, List.take_append_drop]

/-- The validation of the CRC-16 passes exactly where the CRC-16 of the whole response is 0 (R122). -/
theorem ModbusPort.crcFails_iff {m : ModbusPort} {n : Nat} (hneed : m.need = n + 2) (hlen : m.buf.length = n + 2) :
    m.CrcFails ↔ crc16 m.buf ≠ 0x0000 := by
  have hlast : m.need - 2 = n := by omega
  have hend : m.need - 1 = n + 1 := by omega
  have hword : m.buf = m.buf.take n ++ le16 (word16 (byteAt m.buf (n + 1)) (byteAt m.buf n)) := by
    rw [le16, lo_word16, hi_word16]
    exact take_append_last_two hlen
  have hzero : crc16 m.buf = 0x0000 ↔
      word16 (byteAt m.buf (n + 1)) (byteAt m.buf n) = crc16 (m.buf.take n) := by
    conv_lhs => rw [hword]
    exact crc16_append_le16_eq_zero_iff ..
  simp only [ModbusPort.CrcFails, hlast, hend, ne_eq, ← not_and_or, not_iff_not, hzero]
  constructor
  · rintro ⟨hlo, hhi⟩
    rw [hlo, hhi, word16_hi_lo]
  · intro hcrc
    rw [← hcrc]
    exact ⟨(lo_word16 ..).symm, (hi_word16 ..).symm⟩

/-- Settles O29: the CRC-16 of a whole response is 0, and one changed byte changes it. -/
theorem oneChangedResponseByteFailsTheCrc : Obligations.OneChangedResponseByteFailsTheCrc := by
  unfold Obligations.OneChangedResponseByteFailsTheCrc
  intro s slave words before after x y _ hadu hxy hrecv hneed hcnt hbuf
  have hlen : (before ++ y :: after).length = 5 + 2 * words.length := by
    rw [← responseAdu_length slave words, hadu, List.length_append, List.length_append, List.length_cons,
      List.length_cons]
  have hvalid : crc16 (before ++ x :: after) = 0x0000 := by
    rw [← hadu]
    exact (crc16_append_le16_eq_zero_iff _ _).mpr rfl
  have hchanged : crc16 (before ++ y :: after) ≠ 0x0000 := by
    rw [← hvalid]
    exact foldl_ne_of_byte_ne crc16Step_injective crc16Step_injective_byte _ before after hxy.symm
  obtain ⟨t, hrun, hmb⟩ := execAll_mbRxb_mbChk hrecv hcnt hbuf (hlen.trans hneed.symm)
  have hfails : t.mb.CrcFails := by
    refine (ModbusPort.crcFails_iff (n := 3 + 2 * words.length) ?_ ?_).mpr ?_ <;> rw [hmb]
    · exact hneed.trans (by omega)
    · exact hlen.trans (by omega)
    · exact hchanged
  refine ⟨verdict t, hrun, verdict_state t, ?_⟩
  rw [verdict_of_failed (validate_of_crcFails hfails)]
  rfl

/-! ## The whole call -/

/-- `MB.READ` in flight: its request has been sent, and the bytes `rx` have arrived as far as they are taken. -/
def responseArrived (slave : Byte) (addr count : U16) (rx : List Byte) (s : State) : State :=
  (receiveBytes rx (sendRequest slave addr count s)).1

/-- Bytes behind those that are missing are not taken (R146). -/
theorem receiveBytes_take (bytes : List Byte) {s : State} (hrecv : s.mb.state = .recv) (hcnt : s.mb.cnt ≤ s.mb.need) :
    (receiveBytes (bytes.take (s.mb.need - s.mb.cnt)) s).1 = (receiveBytes bytes s).1 := by
  induction bytes generalizing s with
  | nil => rw [List.take_nil]
  | cons b bytes ih =>
    rcases Nat.lt_or_eq_of_le hcnt with hmissing | hfull
    · have henabled : ¬ (s.mb.state = .idle ∨ s.mb.cnt = s.mb.need) := by simp [hrecv, hmissing.ne]
      have hnext := ih (s := receiveByte b s) hrecv hmissing
      have hroom : s.mb.need - s.mb.cnt = (receiveByte b s).mb.need - (receiveByte b s).mb.cnt + 1 := by
        simp only [receiveByte, State.succeed_mb, State.withMb_mb, ModbusPort.push_cnt, ModbusPort.push_need]
        omega
      rw [hroom, List.take_succ_cons, receiveBytes, receiveBytes, if_neg henabled, if_neg henabled, hnext]
    · rw [hfull, Nat.sub_self, List.take_zero, receiveBytes, receiveBytes, if_pos (.inr hfull)]

section
variable {s : State} (slave : Byte) (addr count : U16) (rx : List Byte)

/-- What the call has sent and accumulated: the request, and of the bytes no more than the expected length (R140, R145,
R146). -/
theorem responseArrived_eq (hwritten : Config.writeFails s.mb.draws ≠ true) :
    ∃ r, responseArrived slave addr count rx s =
      { s with
        mb := { s.mb.start slave count with
                buf := rx.take (5 + 2 * count.toNat), cnt := (rx.take (5 + 2 * count.toNat)).length },
        mbTx := s.mbTx ++ requestAdu slave addr count, reply := r } := by
  have hneed : 3 + 2 * count.toNat + 2 = 5 + 2 * count.toNat := by omega
  obtain ⟨r, hr⟩ := receiveBytes_eq rx (sendRequest slave addr count s)
    (by rw [sendRequest_of_written slave addr count hwritten]; exact Nat.zero_le _)
  refine ⟨r, ?_⟩
  rw [responseArrived, hr, sendRequest_of_written slave addr count hwritten]
  simp [State.succeed, State.withMb, State.sendModbus, hneed]

theorem responseArrived_mb (hwritten : Config.writeFails s.mb.draws ≠ true) :
    (responseArrived slave addr count rx s).mb =
      { s.mb.start slave count with
        buf := rx.take (5 + 2 * count.toNat), cnt := (rx.take (5 + 2 * count.toNat)).length } := by
  obtain ⟨r, hr⟩ := responseArrived_eq slave addr count rx hwritten
  rw [hr]

theorem responseArrived_mbTx (hwritten : Config.writeFails s.mb.draws ≠ true) :
    (responseArrived slave addr count rx s).mbTx = s.mbTx ++ requestAdu slave addr count := by
  obtain ⟨r, hr⟩ := responseArrived_eq slave addr count rx hwritten
  rw [hr]

/-- Bytes are missing exactly where too few arrive. -/
theorem responseArrived_cnt_lt_need_iff (hwritten : Config.writeFails s.mb.draws ≠ true) :
    (responseArrived slave addr count rx s).mb.cnt < (responseArrived slave addr count rx s).mb.need ↔
      rx.length < 5 + 2 * count.toNat := by
  rw [responseArrived_mb slave addr count rx hwritten]
  simp only [ModbusPort.start_need, List.length_take]
  omega

theorem readCall_of_writeFails (hfails : Config.writeFails s.mb.draws = true) :
    readCall slave addr count rx s = sendRequest slave addr count s := if_pos hfails

variable {rx}

theorem readCall_of_missing (hwritten : Config.writeFails s.mb.draws ≠ true)
    (hmissing : rx.length < 5 + 2 * count.toNat) :
    readCall slave addr count rx s = expire (responseArrived slave addr count rx s) :=
  (if_neg hwritten).trans (if_pos ((responseArrived_cnt_lt_need_iff slave addr count rx hwritten).mpr hmissing))

theorem readCall_of_complete (hwritten : Config.writeFails s.mb.draws ≠ true)
    (hcomplete : ¬ rx.length < 5 + 2 * count.toNat) :
    readCall slave addr count rx s = verdict (responseArrived slave addr count rx s) :=
  (if_neg hwritten).trans (if_neg (mt (responseArrived_cnt_lt_need_iff slave addr count rx hwritten).mp hcomplete))

end

theorem execAll_singleton {i : Instr} {s t : State} (h : exec i s = .next t) : execAll [i] s = .next t := by
  rw [execAll, h]
  rfl

/-- The request and then the bytes that are taken, offered one by one, lead to where the call stands. -/
theorem execAll_mbReq_mbRxb {s : State} (slave : Byte) (addr count : U16) (rx : List Byte)
    (hidle : s.mb.state = .idle) (hmax : count.toNat ≤ s.par.mbCountMax)
    (hwritten : Config.writeFails s.mb.draws ≠ true) :
    execAll (.mbReq slave addr count :: (rx.take (5 + 2 * count.toNat)).map .mbRxb) s =
      .next (responseArrived slave addr count rx s) := by
  have hrequest : exec (.mbReq slave addr count) s = .next (sendRequest slave addr count s) :=
    guardRequest_of_idle hidle hmax
  have hmb : (sendRequest slave addr count s).mb = s.mb.start slave count := by
    rw [sendRequest_of_written slave addr count hwritten]
    rfl
  have hrecv : (sendRequest slave addr count s).mb.state = .recv := by rw [hmb]; rfl
  have hroom : (sendRequest slave addr count s).mb.need - (sendRequest slave addr count s).mb.cnt =
      5 + 2 * count.toNat := by
    rw [hmb, ModbusPort.start_need, ModbusPort.start_cnt]
    omega
  have htaken := receiveBytes_take rx hrecv (by rw [hmb]; exact Nat.zero_le _)
  rw [hroom] at htaken
  have hfit : (sendRequest slave addr count s).mb.cnt + (rx.take (5 + 2 * count.toNat)).length ≤
      (sendRequest slave addr count s).mb.need := by
    have hlen := List.length_take_le (5 + 2 * count.toNat) rx
    omega
  rw [execAll, hrequest, responseArrived, ← htaken]
  exact execAll_mbRxb_of_fit hrecv hfit

/-- Settles O31: the expansion reaches the state in which the call decides between the timeout and the check. -/
theorem readCallIsItsExpansion : Obligations.ReadCallIsItsExpansion := by
  unfold Obligations.ReadCallIsItsExpansion
  constructor
  · intro s slave addr count rx hrefused
    cases hstate : s.mb.state with
    | recv =>
      exact ⟨(guardRequest_of_recv hstate).trans (guardRequest_of_recv hstate).symm, guardRequest_of_recv hstate⟩
    | idle =>
      have habove : s.par.mbCountMax < count.toNat := hrefused.resolve_left (by rw [hstate]; nofun)
      exact ⟨(guardRequest_of_aboveMax hstate habove).trans (guardRequest_of_aboveMax hstate habove).symm,
        guardRequest_of_aboveMax hstate habove⟩
  · intro s slave addr count rx hidle hmax
    have hcall : exec (.mbRead slave addr count rx) s = .next (readCall slave addr count rx s) :=
      guardRequest_of_idle hidle hmax
    rw [hcall]
    split
    next hfails =>
      rw [readCall_of_writeFails slave addr count rx hfails]
      exact (guardRequest_of_idle hidle hmax).symm
    next hwritten =>
      have harrived := execAll_mbReq_mbRxb slave addr count rx hidle hmax hwritten
      have hmissing := responseArrived_cnt_lt_need_iff slave addr count rx hwritten
      have hrecv : (responseArrived slave addr count rx s).mb.state = .recv := by
        rw [responseArrived_mb slave addr count rx hwritten]
        rfl
      rw [← List.cons_append, execAll_append harrived]
      split
      next hshort =>
        rw [readCall_of_missing slave addr count hwritten hshort]
        exact (execAll_singleton (i := .mbTmo) (execMbTmo_of_recv hrecv (hmissing.mpr hshort).ne)).symm
      next hcomplete =>
        rw [readCall_of_complete slave addr count hwritten hcomplete]
        have hall := Nat.le_of_not_lt (mt hmissing.mp hcomplete)
        exact (execAll_singleton (i := .mbChk) (execMbChk_of_recv hrecv hall)).symm

/-- Settles O32: the write fails, bytes are missing, or the check delivers words or reports a failure of its own. -/
theorem readCallEndsIdleWithWordsOrOneFailure : Obligations.ReadCallEndsIdleWithWordsOrOneFailure := by
  unfold Obligations.ReadCallEndsIdleWithWordsOrOneFailure
  intro s slave addr count rx hidle hmax
  refine ⟨readCall slave addr count rx s, guardRequest_of_idle hidle hmax, ?_⟩
  by_cases hwrite : Config.writeFails s.mb.draws = true
  · obtain ⟨sent, -, heq⟩ := sendRequest_of_writeFails slave addr count hwrite
    rw [readCall_of_writeFails slave addr count rx hwrite, heq]
    exact ⟨hidle, .inr (by simp)⟩
  · by_cases hshort : rx.length < 5 + 2 * count.toNat
    · rw [readCall_of_missing slave addr count hwrite hshort]
      exact ⟨rfl, .inr (by simp [expire])⟩
    · rw [readCall_of_complete slave addr count hwrite hshort]
      refine ⟨verdict_state _, ?_⟩
      rcases verdict_cases (responseArrived slave addr count rx s) with ⟨kind, hkind, heq⟩ | ⟨-, heq⟩ <;> rw [heq]
      · right
        rcases validate_kind hkind with rfl | rfl | rfl <;> simp
      · refine .inl ⟨_, rfl, ?_⟩
        rw [responseWords_length, responseArrived_mb slave addr count rx hwrite]
        rfl

/-- With a response to its request in the stream the call is the delivery of the response's words (R150, R153). -/
theorem readCall_of_response {s : State} {slave : Byte} {count : U16} {words : List U16} (addr : U16)
    (late : List Byte) (hwritten : Config.writeFails s.mb.draws ≠ true) (hcount : count.toNat = words.length)
    (hshort : words.length ≤ 127) :
    ∃ m, m.state = .idle ∧ readCall slave addr count (responseAdu slave words ++ late) s =
      ((responseArrived slave addr count (responseAdu slave words ++ late) s).withMb m).succeed (.words words) := by
  have hlen : (responseAdu slave words).length = 5 + 2 * count.toNat := by rw [responseAdu_length, hcount]
  have hcomplete : ¬ (responseAdu slave words ++ late).length < 5 + 2 * count.toNat := by
    rw [List.length_append, hlen]
    omega
  have hholds : HoldsResponse (responseArrived slave addr count (responseAdu slave words ++ late) s).mb words := by
    rw [responseArrived_mb slave addr count _ hwritten]
    refine ⟨List.take_left' hlen, hcount, ?_, hshort⟩
    rw [ModbusPort.start_need, hcount]
    omega
  rw [readCall_of_complete slave addr count hwritten hcomplete, verdict_of_holdsResponse hholds]
  exact ⟨_, ModbusPort.finish_state _, rfl⟩

/-- Settles O33: the bytes taken from the stream are a whole response to the request in flight. -/
theorem readCallDeliversTheWordsThatArrive : Obligations.ReadCallDeliversTheWordsThatArrive := by
  unfold Obligations.ReadCallDeliversTheWordsThatArrive
  intro s slave addr words late hidle hshort hwords
  have hcount : (BitVec.ofNat 16 words.length).toNat = words.length := Nat.mod_eq_of_lt (by omega)
  generalize BitVec.ofNat 16 words.length = count at hcount ⊢
  have hframe := (readCall_writesOnlyModbus slave addr count (responseAdu slave words ++ late) s).eq
  refine ⟨_, guardRequest_of_idle hidle (hcount.trans_le hwords), ?_⟩
  by_cases hwrite : Config.writeFails s.mb.draws = true
  · obtain ⟨sent, hsent, heq⟩ := sendRequest_of_writeFails slave addr count hwrite
    rw [if_pos hwrite]
    rw [readCall_of_writeFails slave addr count _ hwrite, heq] at hframe ⊢
    exact ⟨hidle, hframe, ⟨sent, hsent, rfl⟩, rfl⟩
  · obtain ⟨m, hm, heq⟩ := readCall_of_response (slave := slave) addr late hwrite hcount hshort
    rw [if_neg hwrite]
    rw [heq] at hframe ⊢
    exact ⟨hm, hframe, responseArrived_mbTx slave addr count _ hwrite, rfl⟩

/-- The address goes out on `mb_tx`, and nothing of it stays in the codec or shows in the result (R140, R156). -/
theorem sendRequest_anyAddr (slave : Byte) (addr addr' count : U16) (s : State) :
    (sendRequest slave addr' count s).mb = (sendRequest slave addr count s).mb ∧
      (sendRequest slave addr' count s).reply = (sendRequest slave addr count s).reply := by
  unfold sendRequest
  split <;> exact ⟨rfl, rfl⟩

/-- What a call accumulates does not depend on the address. -/
theorem responseArrived_anyAddr (slave : Byte) (addr addr' count : U16) (rx : List Byte) (s : State) :
    (responseArrived slave addr' count rx s).mb = (responseArrived slave addr count rx s).mb :=
  (receiveBytes_same rx (sendRequest_anyAddr slave addr addr' count s).1).1.mb

/-- Settles O34: two calls agree on the outcome of the request and on what they accumulate, so on how they end. -/
theorem readCallCannotTellTheAddress : Obligations.ReadCallCannotTellTheAddress := by
  unfold Obligations.ReadCallCannotTellTheAddress
  intro s slave addr addr' count rx hidle hmax
  refine ⟨_, _, guardRequest_of_idle hidle hmax, guardRequest_of_idle hidle hmax, ?_⟩
  have harrived := responseArrived_anyAddr slave addr' addr count rx s
  by_cases hwrite : Config.writeFails s.mb.draws = true
  · obtain ⟨hmb, hreply⟩ := sendRequest_anyAddr slave addr' addr count s
    rw [readCall_of_writeFails slave addr count rx hwrite, readCall_of_writeFails slave addr' count rx hwrite]
    exact ⟨hreply, hmb⟩
  · by_cases hshort : rx.length < 5 + 2 * count.toNat
    · rw [readCall_of_missing slave addr count hwrite hshort, readCall_of_missing slave addr' count hwrite hshort]
      exact ⟨(expire_same harrived).reply, (expire_same harrived).mb⟩
    · rw [readCall_of_complete slave addr count hwrite hshort, readCall_of_complete slave addr' count hwrite hshort]
      exact ⟨(verdict_same harrived).reply, (verdict_same harrived).mb⟩

end Sys2Proof.Machine

/-! # The LinkFrame encoder and the field block

PROOFS of the statements about the encoder (spec/42_linkframe_encode.md). Each operation has one equation per outcome.
`FB.UNPACK` is read through `unpackBlock`, its j-th entry and its indices; the round trip through
`mem_unpackBlock_packBlock`, which says what unpacking makes of any packed block. -/

namespace Sys2Proof.Machine

/-! ## The encoder -/

theorem linkFrameBytes_length (type seq : Byte) (payload : List Byte) :
    (linkFrameBytes type seq payload).length = payload.length + 7 := by
  simp [linkFrameBytes, linkFrameBody]

theorem exec_lfEnc_of_le {type seq : Byte} {payload : List Byte} {s : State} (hlen : payload.length ≤ 240) :
    exec (.lfEnc type seq payload) s =
      .next ((s.sendLink (linkFrameBytes type seq payload)).succeed (.bytes (linkFrameBytes type seq payload))) :=
  congrArg Host.Outcome.next (if_neg (Nat.not_lt.mpr hlen))

theorem exec_lfEnc_of_lt {type seq : Byte} {payload : List Byte} {s : State} (hlen : 240 < payload.length) :
    exec (.lfEnc type seq payload) s = .next (s.fail .errPayloadLen .none) :=
  congrArg Host.Outcome.next (if_pos hlen)

/-- Settles O36: one equation for each side of the length check; the example's checksum is computed. -/
theorem encoderSendsOneFrameOrNothing : Obligations.EncoderSendsOneFrameOrNothing := by
  unfold Obligations.EncoderSendsOneFrameOrNothing
  refine ⟨fun s type seq payload hlen => ⟨linkFrameBytes_length type seq payload, exec_lfEnc_of_le hlen⟩,
    fun _ _ _ _ hlen => exec_lfEnc_of_lt hlen, fun _ _ => rfl, _, exec_lfEnc_of_le (by decide), ?_⟩
  decide +kernel

/-! ## Decoding an encoded frame -/

/-- `LF.DEC` of a whole frame, from any state: the parser is cleared, so it takes the frame from `WAIT` with its
counters 0, and the frame reset at the end keeps them (R208, R210, R191). -/
theorem exec_lfDec_linkFrameBytes (type seq : Byte) {payload : List Byte} (s : State) (hlen : payload.length ≤ 240) :
    ∃ t, exec (.lfDec (linkFrameBytes type seq payload)) s = .next t ∧ t.lp = s.lp.clear.frameReset ∧
      t.reply = { status := .ok,
                  value := .decoded [{ version := Config.version, type := type, seq := seq, payload := payload }]
                    0 0 0 } := by
  obtain ⟨hfed, hemitted⟩ :=
    LinkParser.feedAll_linkFrameBytes s.par.ctrW type seq (p := s.lp.clear) s.lp.clear_stage hlen
  refine ⟨_, rfl, ?_, ?_⟩ <;> simp [feedLink, hfed, hemitted]

/-- Settles O37: the encoder answers the frame, and the cleared parser emits it and nothing else. -/
theorem encodedFramesDecodeBack : Obligations.EncodedFramesDecodeBack := by
  unfold Obligations.EncodedFramesDecodeBack
  intro s type seq payload hlen
  obtain ⟨t, hdec, hlp, hreply⟩ := exec_lfDec_linkFrameBytes type seq _ hlen
  refine ⟨_, _, t, exec_lfEnc_of_le hlen, rfl, hdec, hreply, ?_⟩
  rw [hlp]
  exact ⟨rfl, rfl, rfl, rfl⟩

/-! ## Masks -/

theorem popcount_zero (n : Nat) : popcount n 0 = 0 := by
  simp [popcount]

/-- Below `n` every bit of the all-ones mask is set. -/
theorem popcount_two_pow_sub_one (n : Nat) : popcount n (2 ^ n - 1) = n := by
  have hall : (List.range n).countP (fun i => (2 ^ n - 1).testBit i) = (List.range n).length :=
    List.countP_eq_length.mpr fun i hi => by simpa [Nat.testBit_two_pow_sub_one] using hi
  rw [popcount, hall, List.length_range]

theorem guardMask_of_le {mask : Nat} {run : State → State} {s : State} (h : 2 ^ s.par.nFields ≤ mask) :
    guardMask mask run s = .refused .maskTooWide :=
  if_pos h

/-- Settles O43: the three rows have the same guard, which stands before any other test. -/
theorem wideMasksAreRefused : Obligations.WideMasksAreRefused := by
  unfold Obligations.WideMasksAreRefused
  intro s mask vals present bytes hwide
  unfold exec execFbUnpack
  exact ⟨guardMask_of_le hwide, guardMask_of_le hwide, guardMask_of_le hwide⟩

/-! ## Packing -/

theorem exec_fbPack_of_lt {mask : Nat} {s : State} (vals : List U32) (present : List Bool)
    (hmask : mask < 2 ^ s.par.nFields) :
    exec (.fbPack mask vals present) s =
      .next (s.succeed (.bytes (packBlock s.par.nFields s.par.fbNan mask vals present))) :=
  guardMask_of_lt hmask

/-- Settles O38: four bytes per set bit, and the set bits of the two extreme masks. -/
theorem fieldBlockSizeLaw : Obligations.FieldBlockSizeLaw := by
  unfold Obligations.FieldBlockSizeLaw
  refine ⟨fun s mask vals present hmask => ?_, by decide⟩
  have hlength := packBlock_length s.par.nFields s.par.fbNan mask vals present
  rw [selected_length] at hlength
  refine ⟨_, exec_fbPack_of_lt vals present hmask, hlength, ?_, ?_⟩
  · rintro rfl
    rw [← List.length_eq_zero_iff, hlength, popcount_zero]
  · rintro rfl
    rw [hlength, popcount_two_pow_sub_one]

/-! ## The patterns of a block -/

/-- Joining four bytes sets them side by side, the first lowest. -/
theorem word32_eq_append (b0 b1 b2 b3 : Byte) : word32 b0 b1 b2 b3 = b3 ++ b2 ++ b1 ++ b0 := by
  refine BitVec.eq_of_getLsbD_eq fun i hi' => ?_
  rw [BitVec.getLsbD_append, BitVec.getLsbD_append, BitVec.getLsbD_append]
  simp only [word32, BitVec.getLsbD_or, BitVec.getLsbD_shiftLeft, BitVec.getLsbD_setWidth]
  interval_cases i <;> simp

/-- A byte below a word counts once, the word 256 times. -/
theorem toNat_append_byte {n : Nat} (high : BitVec n) (low : Byte) :
    (high ++ low).toNat = 256 * high.toNat + low.toNat := by
  rw [BitVec.toNat_append, ← Nat.shiftLeft_add_eq_or_of_lt low.isLt, Nat.shiftLeft_eq, Nat.mul_comm]

theorem word32_toNat (b0 b1 b2 b3 : Byte) :
    (word32 b0 b1 b2 b3).toNat = b0.toNat + 256 * b1.toNat + 65536 * b2.toNat + 16777216 * b3.toNat := by
  rw [word32_eq_append, toNat_append_byte, toNat_append_byte, toNat_append_byte]
  omega

/-- The NaN test in numbers: bits 30 to 23 all ones, and a fraction other than 0. -/
theorem isnan32_iff (v : U32) :
    isnan32 v = true ↔ v.toNat / 2 ^ 23 % 256 = 255 ∧ v.toNat % 2 ^ 23 ≠ 0 := by
  simp [isnan32, ← BitVec.toNat_inj, Nat.shiftRight_eq_div_pow]

/-- The pattern at offset `4 * j` is the one whose four bytes stand there. -/
theorem blockPattern_of_take_drop {bytes : List Byte} {j : Nat} {v : U32} (h : (bytes.drop (4 * j)).take 4 = le32 v) :
    blockPattern bytes j = v := by
  have hbyte : ∀ k < 4, byteAt bytes (4 * j + k) = byteAt (le32 v) k := fun k hk => by
    rw [byteAt_add, ← h, byteAt, byteAt, List.getD_eq_getElem?_getD, List.getD_eq_getElem?_getD,
      List.getElem?_take_of_lt hk]
  rw [blockPattern, hbyte 1 (by decide), hbyte 2 (by decide), hbyte 3 (by decide),
    show byteAt bytes (4 * j) = byteAt (le32 v) 0 from hbyte 0 (by decide)]
  exact word32_le32 v

/-! ## Unpacking -/

section

variable {n mask : Nat} {bytes : List Byte}

theorem map_index_unpackBlock : (unpackBlock n mask bytes).map (·.index) = selected n mask := by
  rw [unpackBlock, List.map_map]
  exact List.zipIdx_map_fst 0 _

/-- The set bits are reported in ascending order (R180). -/
theorem unpackBlock_index_pairwise_lt : ((unpackBlock n mask bytes).map (·.index)).Pairwise (· < ·) :=
  map_index_unpackBlock ▸ selected_pairwise_lt n mask

/-- The fields reported are those of the set bits (R180). -/
theorem exists_mem_unpackBlock_iff (hmask : mask < 2 ^ n) (i : Nat) :
    (∃ f ∈ unpackBlock n mask bytes, f.index = i) ↔ mask.testBit i = true := by
  rw [← List.mem_map, map_index_unpackBlock, mem_selected_iff hmask]

/-- Field number `j` reports the pattern at offset `4 * j` (R180). -/
theorem unpackBlock_getElem? {j : Nat} {f : FieldValue} (h : (unpackBlock n mask bytes)[j]? = some f) :
    (selected n mask)[j]? = some f.index ∧ f.value = blockPattern bytes j ∧ f.absent = isnan32 f.value := by
  rw [unpackBlock, List.getElem?_map, List.getElem?_zipIdx, Nat.zero_add, Option.map_map] at h
  obtain ⟨i, hi, rfl⟩ := Option.map_eq_some_iff.mp h
  exact ⟨hi, rfl, rfl⟩

/-- Unpacking a packed block reports for each of its fields the pattern that was packed for it (R181). -/
theorem mem_unpackBlock_packBlock {nan : U32} {vals : List U32} {present : List Bool} {f : FieldValue}
    (h : f ∈ unpackBlock n mask (packBlock n nan mask vals present)) :
    f.value = fieldPattern nan vals present f.index ∧ f.absent = isnan32 f.value := by
  obtain ⟨j, hj⟩ := List.mem_iff_getElem?.mp h
  obtain ⟨hindex, hvalue, habsent⟩ := unpackBlock_getElem? hj
  exact ⟨hvalue.trans (blockPattern_of_take_drop (take_drop_packBlock nan vals present hindex)), habsent⟩

end

theorem exec_fbUnpack_of_lt {mask : Nat} {s : State} (bytes : List Byte) (hmask : mask < 2 ^ s.par.nFields) :
    exec (.fbUnpack mask bytes) s =
      .next (if bytes.length ≠ 4 * popcount s.par.nFields mask then s.fail .errFbLen .none
        else s.succeed (.fields (unpackBlock s.par.nFields mask bytes))) := by
  unfold exec execFbUnpack
  exact guardMask_of_lt hmask

theorem exec_fbUnpack_of_length_eq {mask : Nat} {bytes : List Byte} {s : State} (hmask : mask < 2 ^ s.par.nFields)
    (hlen : bytes.length = 4 * popcount s.par.nFields mask) :
    exec (.fbUnpack mask bytes) s = .next (s.succeed (.fields (unpackBlock s.par.nFields mask bytes))) := by
  rw [exec_fbUnpack_of_lt bytes hmask, if_neg (not_not.mpr hlen)]

theorem exec_fbUnpack_of_length_ne {mask : Nat} {bytes : List Byte} {s : State} (hmask : mask < 2 ^ s.par.nFields)
    (hlen : bytes.length ≠ 4 * popcount s.par.nFields mask) :
    exec (.fbUnpack mask bytes) s = .next (s.fail .errFbLen .none) := by
  rw [exec_fbUnpack_of_lt bytes hmask, if_pos hlen]

/-- Settles O42: one equation for each side of the length check; the fields are those of `unpackBlock`, whose patterns
and NaN test are put into numbers. -/
theorem unpackReportsEachSetBit : Obligations.UnpackReportsEachSetBit := by
  unfold Obligations.UnpackReportsEachSetBit
  intro s mask bytes hmask
  refine ⟨exec_fbUnpack_of_length_ne hmask, fun hlen => ⟨unpackBlock s.par.nFields mask bytes,
    exec_fbUnpack_of_length_eq hmask hlen, unpackBlock_index_pairwise_lt, exists_mem_unpackBlock_iff hmask,
    fun j f hj => ?_⟩⟩
  obtain ⟨-, hvalue, habsent⟩ := unpackBlock_getElem? hj
  constructor
  · rw [hvalue]
    exact word32_toNat ..
  · rw [habsent]
    exact isnan32_iff f.value

/-- Settles O41: the packed block has the length that unpacking asks for, and each field comes back with the pattern
packed for it: its value, or `FB_NAN`, which is a NaN. -/
theorem fieldBlockRoundTrip : Obligations.FieldBlockRoundTrip := by
  unfold Obligations.FieldBlockRoundTrip
  intro s mask vals present hmask hvals hpresent hnan
  have hlen := packBlock_length s.par.nFields s.par.fbNan mask vals present
  rw [selected_length] at hlen
  refine ⟨_, _, _, _, exec_fbPack_of_lt vals present hmask, rfl, exec_fbUnpack_of_length_eq hmask hlen, rfl,
    unpackBlock_index_pairwise_lt, exists_mem_unpackBlock_iff hmask, fun f hf => ?_⟩
  obtain ⟨hvalue, habsent⟩ := mem_unpackBlock_packBlock hf
  rw [fieldPattern_eq] at hvalue
  constructor
  · intro htrue
    obtain ⟨hbound, -⟩ := List.getElem?_eq_some_iff.mp htrue
    have hval : vals[f.index]? = some (vals[f.index]'(by omega)) := List.getElem?_eq_getElem _
    rw [if_pos htrue, hval, Option.getD_some] at hvalue
    rw [hval, hvalue]
  · intro hfalse
    rw [if_neg (by simp [hfalse])] at hvalue
    rw [habsent, hvalue]
    exact ⟨rfl, hnan⟩

end Sys2Proof.Machine

/-! # The LinkParser: one byte, batches, resynchronisation, what every step keeps

PROOFS of the statements about the LinkParser (spec/43_linkparser.md) and of the block's invariant. A byte either is one
of three faults, named below, or leaves the counters alone: `LinkParser.feed_cases` says so once, and the statements
about counters and the bound of R213 follow from it. A batch is read through what single bytes do, by induction. -/

namespace Sys2Proof.Machine

/-! ## The operations as equations -/

theorem exec_lpFeed (b : Byte) (s : State) :
    exec (.lpFeed b) s = .next
      ((s.withLp (s.lp.feed s.par.ctrW b) (s.lp.emitted b)).succeed (.frames (s.lp.emitted b))) := by
  have hone : s.lp.emittedAll s.par.ctrW [b] = s.lp.emitted b := List.append_nil _
  rw [← hone]
  rfl

theorem exec_lpFeedn (bytes : List Byte) (s : State) : exec (.lpFeedn bytes) s = .next (feedLink bytes s) := rfl

theorem feedLink_reply (bytes : List Byte) (s : State) :
    (feedLink bytes s).reply = { status := .ok, value := .frames (s.lp.emittedAll s.par.ctrW bytes) } := rfl

theorem feedLink_lp (bytes : List Byte) (s : State) : (feedLink bytes s).lp = s.lp.feedAll s.par.ctrW bytes := rfl

theorem feedLink_emits (bytes : List Byte) (s : State) :
    (feedLink bytes s).emits = s.emits ++ s.lp.emittedAll s.par.ctrW bytes := rfl

theorem exec_lpRst (s : State) : exec .lpRst s = .next ((s.withLp s.lp.clear []).succeed .none) := rfl

theorem exec_lfDec (bytes : List Byte) (s : State) :
    exec (.lfDec bytes) s = .next ((feedLink bytes (s.withLp s.lp.clear [])).succeed
      (.decoded (s.lp.clear.emittedAll s.par.ctrW bytes) (s.lp.clear.feedAll s.par.ctrW bytes).ctrFraming
        (s.lp.clear.feedAll s.par.ctrW bytes).ctrLength (s.lp.clear.feedAll s.par.ctrW bytes).ctrCrc)) := rfl

/-- Settles O45: the equation of `LP.FEED` has no condition. -/
theorem feedIsTotal : Obligations.FeedIsTotal := by
  unfold Obligations.FeedIsTotal
  exact fun s b => ⟨_, exec_lpFeed b s, rfl⟩

/-- Settles O51: both replies carry the frames of one batch fed to the cleared parser. -/
theorem decodeIsResetThenFeed : Obligations.DecodeIsResetThenFeed := by
  unfold Obligations.DecodeIsResetThenFeed
  exact fun s bytes => ⟨_, _, _, exec_lpRst s, exec_lpFeedn bytes _, feedLink_reply bytes _, exec_lfDec bytes s⟩

theorem execLpRdc_of_lt {n : Nat} (s : State) (h : 2 < n) : execLpRdc n s = .refused .noSuchCounter := by
  match n, h with
  | n + 3, _ => rfl

/-- Settles O52: one equation for each counter number; the example's length fault is evaluated. -/
theorem readingACounterChangesNothing : Obligations.ReadingACounterChangesNothing := by
  unfold Obligations.ReadingACounterChangesNothing
  refine ⟨fun _ => rfl, fun _ => rfl, fun _ => rfl, fun _ => rfl, fun s _ => execLpRdc_of_lt s, _,
    exec_lpFeedn _ _, ?_⟩
  decide +kernel

/-- Settles O53: the cleared parser, and no frame appended to the emit output. -/
theorem parserResetClearsTheCounters : Obligations.ParserResetClearsTheCounters := by
  unfold Obligations.ParserResetClearsTheCounters
  refine fun s => ⟨_, exec_lpRst s, rfl, rfl, rfl, rfl, rfl, ?_⟩
  simp [State.withLp, State.succeed]

/-! ## One byte -/

/-- R197: the length byte says more than a frame may hold. -/
abbrev LinkParser.LengthFault (p : LinkParser) (b : Byte) : Prop := p.stage = .hdr3 ∧ Config.maxPayload < b.toNat

/-- R199: the checksum byte is not the CRC-8 of what was collected. -/
abbrev LinkParser.CrcFault (p : LinkParser) (b : Byte) : Prop := p.stage = .checksum ∧ b ≠ p.expectedCrc

/-- R200: the byte in stage `END` is not END. -/
abbrev LinkParser.FramingFault (p : LinkParser) (b : Byte) : Prop := p.stage = .endMark ∧ b ≠ Config.endByte

section
variable {w : Nat} {p : LinkParser} {b : Byte}

theorem LinkParser.feed_of_lengthFault (h : p.LengthFault b) :
    p.feed w b = { p with ctrLength := bump w p.ctrLength }.frameReset := by
  rw [feed, h.1]
  exact if_pos h.2

theorem LinkParser.feed_of_crcFault (h : p.CrcFault b) :
    p.feed w b = { p with ctrCrc := bump w p.ctrCrc }.frameReset := by
  rw [feed, h.1]
  exact if_neg h.2

theorem LinkParser.feed_of_framingFault (h : p.FramingFault b) :
    p.feed w b = { p with ctrFraming := bump w p.ctrFraming }.frameReset := by
  rw [feed, h.1]
  exact if_neg h.2

/-- A byte other than START is dropped in `WAIT` (R193). -/
theorem LinkParser.feed_of_noise (hwait : p.stage = .wait) (hnoise : b ≠ Config.startByte) : p.feed w b = p := by
  rw [feed, hwait]
  exact if_neg hnoise

/-- A foreign version resets the parser and is not counted (R194). -/
theorem LinkParser.feed_of_foreignVersion (hstage : p.stage = .hdr0) (hver : b ≠ Config.version) :
    p.feed w b = p.frameReset := by
  rw [feed, hstage]
  exact if_neg hver

/-- END ends the frame, which is not a fault (R200). -/
theorem LinkParser.feed_of_end (hstage : p.stage = .endMark) (hend : b = Config.endByte) :
    p.feed w b = p.frameReset := by
  rw [feed, hstage]
  exact if_pos hend

/-- The parser goes on to the next frame whatever the byte in stage `END` is (R200). -/
theorem LinkParser.feed_stage_of_endMark (hstage : p.stage = .endMark) : (p.feed w b).stage = .wait := by
  simp only [feed, hstage, feedEnd]
  split <;> rfl

/-- The three counters of `q` are those of `p`. -/
abbrev LinkParser.SameCounters (p q : LinkParser) : Prop :=
  q.ctrFraming = p.ctrFraming ∧ q.ctrLength = p.ctrLength ∧ q.ctrCrc = p.ctrCrc

/-- A byte that is no fault moves no counter (R202). -/
theorem LinkParser.feed_sameCounters (hlength : ¬ p.LengthFault b) (hcrc : ¬ p.CrcFault b)
    (hframing : ¬ p.FramingFault b) : p.SameCounters (p.feed w b) := by
  cases hstage : p.stage with
  | wait =>
    simp only [feed, hstage, feedWait]
    split <;> exact ⟨rfl, rfl, rfl⟩
  | hdr0 =>
    simp only [feed, hstage, feedVersion]
    split <;> exact ⟨rfl, rfl, rfl⟩
  | hdr1 | hdr2 | payload =>
    simp only [feed, hstage]
    exact ⟨rfl, rfl, rfl⟩
  | hdr3 =>
    simp only [feed, hstage, feedLength, if_neg (not_and.mp hlength hstage)]
    exact ⟨rfl, rfl, rfl⟩
  | checksum =>
    simp only [feed, hstage, feedChecksum, if_pos (not_not.mp (not_and.mp hcrc hstage))]
    exact ⟨rfl, rfl, rfl⟩
  | endMark =>
    simp only [feed, hstage, feedEnd, if_pos (not_not.mp (not_and.mp hframing hstage))]
    exact ⟨rfl, rfl, rfl⟩

/-- What a byte does to the counters: it is one fault of the three, counted once on a parser that is reset, or none. -/
theorem LinkParser.feed_cases (w : Nat) (p : LinkParser) (b : Byte) :
    (p.LengthFault b ∧ ¬ p.CrcFault b ∧ ¬ p.FramingFault b ∧
      p.feed w b = { p with ctrLength := bump w p.ctrLength }.frameReset) ∨
    (¬ p.LengthFault b ∧ p.CrcFault b ∧ ¬ p.FramingFault b ∧
      p.feed w b = { p with ctrCrc := bump w p.ctrCrc }.frameReset) ∨
    (¬ p.LengthFault b ∧ ¬ p.CrcFault b ∧ p.FramingFault b ∧
      p.feed w b = { p with ctrFraming := bump w p.ctrFraming }.frameReset) ∨
    (¬ p.LengthFault b ∧ ¬ p.CrcFault b ∧ ¬ p.FramingFault b ∧ p.SameCounters (p.feed w b)) := by
  by_cases hlength : p.LengthFault b
  · exact .inl ⟨hlength, by simp [hlength.1], by simp [hlength.1], feed_of_lengthFault hlength⟩
  by_cases hcrc : p.CrcFault b
  · exact .inr (.inl ⟨hlength, hcrc, by simp [hcrc.1], feed_of_crcFault hcrc⟩)
  by_cases hframing : p.FramingFault b
  · exact .inr (.inr (.inl ⟨hlength, hcrc, hframing, feed_of_framingFault hframing⟩))
  · exact .inr (.inr (.inr ⟨hlength, hcrc, hframing, feed_sameCounters hlength hcrc hframing⟩))

end

/-- Settles O46: a fault is counted on a parser that is reset; the fourth path moves no counter. -/
theorem feedChangesAtMostOneCounter : Obligations.FeedChangesAtMostOneCounter := by
  unfold Obligations.FeedChangesAtMostOneCounter
  refine fun s b => ⟨_, exec_lpFeed b s, ?_⟩
  simp only [State.succeed_lp, State.withLp_lp]
  rcases s.lp.feed_cases s.par.ctrW b with ⟨⟨hstage, hlong⟩, -, -, hfeed⟩ | ⟨-, ⟨hstage, hcrc⟩, -, hfeed⟩ |
    ⟨-, -, ⟨hstage, hend⟩, hfeed⟩ | ⟨hlength, hcrc, hframing, hkeptF, hkeptL, hkeptC⟩
  · rw [hfeed]
    exact .inl ⟨hstage, hlong, rfl, rfl, rfl, rfl⟩
  · rw [hfeed]
    exact .inr (.inl ⟨hstage, hcrc, rfl, rfl, rfl, rfl⟩)
  · rw [hfeed]
    exact .inr (.inr (.inl ⟨hstage, hend, rfl, rfl, rfl, rfl⟩))
  · refine .inr (.inr (.inr ⟨hlength, hframing, hcrc, hkeptF, hkeptL, hkeptC, fun hhdr0 hver => ?_,
      fun hwait hnoise => ?_⟩))
    · rw [LinkParser.feed_of_foreignVersion hhdr0 hver, LinkParser.frameReset_stage]
    · rw [LinkParser.feed_of_noise hwait hnoise, hwait]

/-- Settles O48: in each of the three stages the byte resets the parser. -/
theorem abortingByteIsConsumed : Obligations.AbortingByteIsConsumed := by
  unfold Obligations.AbortingByteIsConsumed
  refine fun s => ⟨_, exec_lpFeed 0xAA s, ?_⟩
  simp only [State.succeed_lp, State.withLp_lp]
  rintro (hstage | hstage | ⟨hstage, hcrc⟩)
  · rw [LinkParser.feed_of_foreignVersion hstage (by decide), LinkParser.frameReset_stage]
  · exact LinkParser.feed_stage_of_endMark hstage
  · rw [LinkParser.feed_of_crcFault ⟨hstage, hcrc⟩, LinkParser.frameReset_stage]

/-! ## The bound of R213 -/

/-- The unit that a parser holds while it is outside `WAIT`. -/
def LinkParser.outside (p : LinkParser) : Nat := if p.stage = .wait then 0 else 1

theorem LinkParser.outside_le_one (p : LinkParser) : p.outside ≤ 1 := by
  unfold outside
  split <;> decide

theorem LinkParser.outside_of_wait {p : LinkParser} (h : p.stage = .wait) : p.outside = 0 := if_pos h

theorem LinkParser.outside_of_not_wait {p : LinkParser} (h : p.stage ≠ .wait) : p.outside = 1 := if_neg h

/-- How many faults a byte is: at most one. -/
def LinkParser.faults (p : LinkParser) (b : Byte) : Nat :=
  (if p.FramingFault b then 1 else 0) + (if p.LengthFault b then 1 else 0) + (if p.CrcFault b then 1 else 0)

/-- The parser leaves `WAIT` only on START, and emits only on going back to `WAIT` from stage `END`. -/
theorem LinkParser.emitted_add_outside_le (w : Nat) (p : LinkParser) (b : Byte) :
    (p.emitted b).length + (p.feed w b).outside ≤ (if b = Config.startByte then 1 else 0) + p.outside := by
  by_cases hwait : p.stage = .wait
  · rw [emitted_of_stage_ne b (by simp [hwait]), outside_of_wait hwait]
    by_cases hstart : b = Config.startByte
    · rw [if_pos hstart]
      simpa using (p.feed w b).outside_le_one
    · rw [feed_of_noise hwait hstart, outside_of_wait hwait]
      exact Nat.zero_le _
  · rw [outside_of_not_wait hwait]
    rcases p.emitted_cases b with ⟨hstage, -, hone⟩ | hnone
    · rw [hone, outside_of_wait (feed_stage_of_endMark hstage)]
      exact Nat.le_add_left _ _
    · rw [hnone]
      have := (p.feed w b).outside_le_one
      simp only [List.length_nil]
      omega

/-- A byte is no fault, or one fault that resets a parser outside `WAIT` and emits nothing. -/
theorem LinkParser.faults_cases (w : Nat) (p : LinkParser) (b : Byte) :
    p.faults b = 0 ∨ p.faults b = 1 ∧ p.outside = 1 ∧ p.emitted b = [] ∧ (p.feed w b).outside = 0 := by
  rcases p.feed_cases w b with ⟨hlength, hcrc, hframing, hfeed⟩ | ⟨hlength, hcrc, hframing, hfeed⟩ |
    ⟨hlength, hcrc, hframing, hfeed⟩ | ⟨hlength, hcrc, hframing, -⟩
  · exact .inr ⟨by rw [faults, if_pos hlength, if_neg hcrc, if_neg hframing], outside_of_not_wait (by simp [hlength.1]),
      emitted_of_stage_ne b (by simp [hlength.1]), outside_of_wait (by rw [hfeed, frameReset_stage])⟩
  · exact .inr ⟨by rw [faults, if_neg hlength, if_pos hcrc, if_neg hframing], outside_of_not_wait (by simp [hcrc.1]),
      emitted_of_stage_ne b (by simp [hcrc.1]), outside_of_wait (by rw [hfeed, frameReset_stage])⟩
  · exact .inr ⟨by rw [faults, if_neg hlength, if_neg hcrc, if_pos hframing],
      outside_of_not_wait (by simp [hframing.1]), if_neg fun hend => hframing.2 hend.2,
      outside_of_wait (feed_stage_of_endMark hframing.1)⟩
  · exact .inl (by rw [faults, if_neg hframing, if_neg hlength, if_neg hcrc])

/-- A fault spends the unit that the parser holds; any other byte is in `LinkParser.emitted_add_outside_le`. -/
theorem LinkParser.emitted_add_faults_add_outside_le (w : Nat) (p : LinkParser) (b : Byte) :
    (p.emitted b).length + p.faults b + (p.feed w b).outside ≤
      (if b = Config.startByte then 1 else 0) + p.outside := by
  rcases p.faults_cases w b with hnone | ⟨hone, houtside, hsilent, hreset⟩
  · rw [hnone]
    exact p.emitted_add_outside_le w b
  · rw [hone, houtside, hsilent, hreset]
    exact Nat.le_add_left _ _

/-- Each fault is the increment of its own counter. -/
theorem LinkParser.feed_counters (w : Nat) (p : LinkParser) (b : Byte) :
    (p.feed w b).ctrLength = (if p.LengthFault b then bump w p.ctrLength else p.ctrLength) ∧
    (p.feed w b).ctrCrc = (if p.CrcFault b then bump w p.ctrCrc else p.ctrCrc) ∧
    (p.feed w b).ctrFraming = (if p.FramingFault b then bump w p.ctrFraming else p.ctrFraming) := by
  rcases p.feed_cases w b with ⟨hlength, hcrc, hframing, hfeed⟩ | ⟨hlength, hcrc, hframing, hfeed⟩ |
    ⟨hlength, hcrc, hframing, hfeed⟩ | ⟨hlength, hcrc, hframing, hkeptF, hkeptL, hkeptC⟩
  · rw [hfeed, if_pos hlength, if_neg hcrc, if_neg hframing]
    exact ⟨rfl, rfl, rfl⟩
  · rw [hfeed, if_neg hlength, if_pos hcrc, if_neg hframing]
    exact ⟨rfl, rfl, rfl⟩
  · rw [hfeed, if_neg hlength, if_neg hcrc, if_pos hframing]
    exact ⟨rfl, rfl, rfl⟩
  · rw [if_neg hlength, if_neg hcrc, if_neg hframing]
    exact ⟨hkeptL, hkeptC, hkeptF⟩

/-- Settles O60: the bound of one byte, and the faults that each counter counts. -/
theorem eachStartPaysForOneFrameOrFault : Obligations.EachStartPaysForOneFrameOrFault := by
  unfold Obligations.EachStartPaysForOneFrameOrFault
  refine fun s b => ⟨_, _, exec_lpFeed b s, rfl, ?_⟩
  have hbound := s.lp.emitted_add_faults_add_outside_le s.par.ctrW b
  obtain ⟨hlength, hcrc, hframing⟩ := s.lp.feed_counters s.par.ctrW b
  simp only [LinkParser.faults, ← Nat.add_assoc] at hbound
  have hone (c : Prop) [Decidable c] : c ↔ (if c then 1 else 0) = 1 := one_ne_zero.ite_eq_left_iff.symm
  exact ⟨hbound, hlength.trans (if_congr (hone _) rfl rfl), hcrc.trans (if_congr (hone _) rfl rfl),
    hframing.trans (if_congr (hone _) rfl rfl)⟩

/-- The three counters together. -/
def LinkParser.counted (p : LinkParser) : Nat := p.ctrFraming + p.ctrLength + p.ctrCrc

theorem bump_le (w n : Nat) : bump w n ≤ n + 1 := Nat.mod_le _ _

theorem ite_bump_le (w n : Nat) (c : Prop) [Decidable c] :
    (if c then bump w n else n) ≤ n + (if c then 1 else 0) := by
  split
  · exact bump_le w n
  · exact Nat.le_add_right n 0

/-- The counters grow by no more than the faults; by less where one wraps. -/
theorem LinkParser.feed_counted_le (w : Nat) (p : LinkParser) (b : Byte) :
    (p.feed w b).counted ≤ p.counted + p.faults b := by
  obtain ⟨hlength, hcrc, hframing⟩ := p.feed_counters w b
  have hlengthLe := ite_bump_le w p.ctrLength (p.LengthFault b)
  have hcrcLe := ite_bump_le w p.ctrCrc (p.CrcFault b)
  have hframingLe := ite_bump_le w p.ctrFraming (p.FramingFault b)
  rw [← hlength] at hlengthLe
  rw [← hcrc] at hcrcLe
  rw [← hframing] at hframingLe
  simp only [counted, faults]
  omega

/-- Over a batch: what is emitted and counted, and the unit still held, is paid for by the START values fed. -/
theorem LinkParser.emittedAll_add_counted_le (w : Nat) (p : LinkParser) (bytes : List Byte) :
    (p.emittedAll w bytes).length + (p.feedAll w bytes).counted + (p.feedAll w bytes).outside ≤
      bytes.count Config.startByte + p.counted + p.outside := by
  induction bytes generalizing p with
  | nil => simp [emittedAll, feedAll]
  | cons b bytes ih =>
    have htail := ih (p.feed w b)
    have hhead := p.emitted_add_faults_add_outside_le w b
    have hcounted := p.feed_counted_le w b
    simp only [emittedAll, feedAll, List.length_append, List.count_cons, beq_iff_eq]
    omega

/-- Settles O57: the cleared parser holds no unit and has counted nothing. -/
theorem framesAndFaultsBoundedByStarts : Obligations.FramesAndFaultsBoundedByStarts := by
  unfold Obligations.FramesAndFaultsBoundedByStarts
  refine fun s bytes => ⟨_, _, _, _, _, exec_lfDec bytes s, rfl, ?_⟩
  have hbound := s.lp.clear.emittedAll_add_counted_le s.par.ctrW bytes
  have hcounted : s.lp.clear.counted = 0 := rfl
  rw [hcounted, LinkParser.outside_of_wait s.lp.clear_stage, LinkParser.counted] at hbound
  change _ ≤ bytes.count Config.startByte
  omega

/-! ## Noise, stray START, corrupted frames -/

/-- Bytes other than START are dropped in `WAIT` (R193). -/
theorem LinkParser.feedAll_noise (w : Nat) {p : LinkParser} {noise : List Byte} (hwait : p.stage = .wait)
    (hnoise : Config.startByte ∉ noise) : p.feedAll w noise = p ∧ p.emittedAll w noise = [] := by
  induction noise with
  | nil => exact ⟨rfl, rfl⟩
  | cons b noise ih =>
    obtain ⟨hfirst, hrest⟩ := not_or.mp (mt List.mem_cons.mpr hnoise)
    obtain ⟨hfed, hemitted⟩ := ih hrest
    rw [feedAll, emittedAll, feed_of_noise hwait (Ne.symm hfirst), emitted_of_stage_ne b (by simp [hwait])]
    exact ⟨hfed, hemitted⟩

/-- A second START is a foreign version: both are consumed, and without a further START the rest is noise (R201). -/
theorem LinkParser.feedAll_strayStart (w : Nat) {p : LinkParser} {rest : List Byte} (hwait : p.stage = .wait)
    (hrest : Config.startByte ∉ rest) :
    p.feedAll w (Config.startByte :: Config.startByte :: rest) = { p with stage := .hdr0 }.frameReset ∧
      p.emittedAll w (Config.startByte :: Config.startByte :: rest) = [] := by
  have hfirst : p.feed w Config.startByte = { p with stage := .hdr0 } := by
    rw [feed, hwait]
    rfl
  have hsecond : { p with stage := .hdr0 }.feed w Config.startByte = { p with stage := .hdr0 }.frameReset :=
    feed_of_foreignVersion rfl (by decide)
  obtain ⟨hfed, hemitted⟩ := feedAll_noise w (p := { p with stage := .hdr0 }.frameReset) rfl hrest
  have hsilent : p.emitted Config.startByte = [] := emitted_of_stage_ne _ (by simp [hwait])
  rw [feedAll, feedAll, emittedAll, emittedAll, hsilent, hfirst, hsecond, hfed, hemitted]
  exact ⟨rfl, rfl⟩

/-- Settles O49: the two START bytes cancel, and the rest of the frame is noise. -/
theorem strayStartLosesTheFrame : Obligations.StrayStartLosesTheFrame := by
  unfold Obligations.StrayStartLosesTheFrame
  intro s type seq payload hwait _ hnoStart
  obtain ⟨hfed, hemitted⟩ := LinkParser.feedAll_strayStart s.par.ctrW hwait hnoStart
  have hbytes : 0xAA :: linkFrameBytes type seq payload =
      Config.startByte :: Config.startByte :: (linkFrameBytes type seq payload).drop 1 := rfl
  refine ⟨_, exec_lpFeedn _ s, ?_⟩
  rw [hbytes, feedLink_emits, feedLink_lp, hfed, hemitted, List.append_nil]
  exact ⟨rfl, rfl, rfl, rfl, rfl⟩

/-- A false START, a header for five bytes, and five bytes that are taken as its payload (R211). -/
theorem LinkParser.feedAll_swallowed (w : Nat) {p : LinkParser} (hwait : p.stage = .wait) {swallowed : List Byte}
    (hlen : swallowed.length = 5) :
    (p.feedAll w ([0xAA, 0x01, 0x00, 0x00, 0x05] ++ swallowed)).stage = .checksum ∧
      (p.feedAll w ([0xAA, 0x01, 0x00, 0x00, 0x05] ++ swallowed)).len = 0x05 ∧
      (p.feedAll w ([0xAA, 0x01, 0x00, 0x00, 0x05] ++ swallowed)).buf.toList.take 5 = swallowed := by
  have hsplit : [0xAA, 0x01, 0x00, 0x00, 0x05] ++ swallowed =
      Config.startByte :: linkFrameBody 0x00 0x00 swallowed := by
    rw [linkFrameBody, hlen]
    rfl
  obtain ⟨buf, hstored, hfed, -⟩ := feedAll_linkFrameBody w 0x00 0x00 (payload := swallowed) hwait (by omega)
  rw [hsplit, hfed, hlen]
  exact ⟨rfl, rfl, hlen ▸ hstored⟩

/-- Settles O54: the noise leaves the parser as it was, in `WAIT`, and the frame is taken from its own START. -/
theorem noiseBeforeAFrameIsDropped : Obligations.NoiseBeforeAFrameIsDropped := by
  unfold Obligations.NoiseBeforeAFrameIsDropped
  refine ⟨⟨_, exec_lpFeedn _ _, by decide +kernel⟩, fun type seq payload => ⟨_, exec_lpFeedn _ _, ?_⟩,
    fun s garbage type seq payload hwait hnoStart hlen => ⟨_, exec_lpFeedn _ s, ?_⟩⟩
  · exact LinkParser.feedAll_swallowed _ rfl (by simp [linkFrameBytes_length])
  · obtain ⟨hnoise, hsilent⟩ := LinkParser.feedAll_noise s.par.ctrW hwait hnoStart
    obtain ⟨hfed, hemitted⟩ := LinkParser.feedAll_linkFrameBytes s.par.ctrW type seq hwait hlen
    simp [feedLink, LinkParser.feedAll_append, LinkParser.emittedAll_append, hnoise, hsilent, hfed, hemitted]

/-- A whole frame whose checksum byte is not the CRC-8 of its body is counted as one CRC fault, and END is dropped in
`WAIT` (R199, R193). -/
theorem LinkParser.feedAll_badChecksum {p : LinkParser} (w : Nat) {type seq : Byte} {payload : List Byte} {check : Byte}
    (hwait : p.stage = .wait) (hlen : payload.length ≤ 240) (hcheck : check ≠ crc8 (linkFrameBody type seq payload)) :
    ∃ q : LinkParser, p.SameCounters q ∧
      p.feedAll w (Config.startByte :: linkFrameBody type seq payload ++ [check, Config.endByte]) =
        { q with ctrCrc := bump w q.ctrCrc }.frameReset ∧
      p.emittedAll w (Config.startByte :: linkFrameBody type seq payload ++ [check, Config.endByte]) = [] := by
  obtain ⟨buf, hstored, hfed, hemitted⟩ := feedAll_linkFrameBody w type seq hwait hlen
  generalize hq : p.feedAll w (Config.startByte :: linkFrameBody type seq payload) = q at hfed
  have hexpected : q.expectedCrc = crc8 (linkFrameBody type seq payload) := by
    have hbyte : payload.length % 256 = payload.length := by omega
    simp [hfed, expectedCrc, collected, linkFrameBody, hbyte, hstored]
  have hfault : q.CrcFault check := ⟨by rw [hfed], by rwa [hexpected]⟩
  have hend : { q with ctrCrc := bump w q.ctrCrc }.frameReset.feed w Config.endByte =
      { q with ctrCrc := bump w q.ctrCrc }.frameReset := feed_of_noise rfl (by decide)
  have hsilent : q.emitted check = [] := emitted_of_stage_ne check (by simp [hfault.1])
  refine ⟨q, by rw [hfed]; exact ⟨rfl, rfl, rfl⟩, ?_, ?_⟩
  · rw [feedAll_append, hq, feedAll, feedAll, feed_of_crcFault hfault, hend]
    rfl
  · rw [emittedAll_append, hq, hemitted, emittedAll, emittedAll, feed_of_crcFault hfault, hsilent]
    rfl

/-- Settles O56: the checksum byte is not the CRC-8 of the payload that arrives. -/
theorem corruptedFrameIsCountedOnce : Obligations.CorruptedFrameIsCountedOnce := by
  unfold Obligations.CorruptedFrameIsCountedOnce
  intro s type seq payload corrupted check hwait hlen hchanged
  dsimp only at hchanged
  have hsame : corrupted.length = payload.length := by
    rcases hchanged with ⟨rfl, -⟩ | ⟨-, before, x, y, after, rfl, rfl, -⟩
    · rfl
    · simp
  have hcheck : check ≠ crc8 (linkFrameBody type seq corrupted) := by
    rw [linkFrameBody, hsame]
    rcases hchanged with ⟨rfl, hcheck⟩ | ⟨rfl, before, x, y, after, rfl, rfl, hxy⟩
    · exact hcheck
    · exact foldl_ne_of_byte_ne crc8Step_injective crc8Step_injective_byte _ (_ :: _ :: _ :: _ :: before) after hxy
  obtain ⟨q, ⟨hframing, hlength, hcrc⟩, hfed, hemitted⟩ :=
    LinkParser.feedAll_badChecksum s.par.ctrW hwait (hsame.trans_le hlen) hcheck
  have hbytes : [0xAA, 0x01, type, seq, BitVec.ofNat 8 payload.length] ++ corrupted ++ [check, 0x55] =
      Config.startByte :: linkFrameBody type seq corrupted ++ [check, Config.endByte] := by
    rw [linkFrameBody, hsame]
    rfl
  refine ⟨_, exec_lpFeedn _ s, ?_⟩
  rw [hbytes, feedLink_reply, feedLink_emits, feedLink_lp, hfed, hemitted, List.append_nil]
  exact ⟨rfl, rfl, rfl, congrArg (bump s.par.ctrW) hcrc, hframing, hlength⟩

/-! ## Batches -/

/-- The bytes of a batch, fed one by one, lead to the state of the batch, the reply apart (R207). -/
theorem execAll_lpFeed (bytes : List Byte) (s : State) :
    ∃ r, execAll (bytes.map .lpFeed) s = .next { feedLink bytes s with reply := r } := by
  induction bytes generalizing s with
  | nil =>
    refine ⟨s.reply, ?_⟩
    simp [execAll, feedLink, LinkParser.feedAll, LinkParser.emittedAll, State.withLp, State.succeed]
  | cons b bytes ih =>
    obtain ⟨r, hrest⟩ := ih ((s.withLp (s.lp.feed s.par.ctrW b) (s.lp.emitted b)).succeed (.frames (s.lp.emitted b)))
    refine ⟨r, ?_⟩
    rw [List.map_cons, execAll, exec_lpFeed]
    simp only [hrest]
    simp [feedLink, LinkParser.feedAll, LinkParser.emittedAll, State.withLp, State.succeed]

/-- Settles O50: a batch is read by induction as its bytes one by one, and by concatenation as its parts. -/
theorem batchesSplitAnywhere : Obligations.BatchesSplitAnywhere := by
  unfold Obligations.BatchesSplitAnywhere
  refine ⟨fun s bytes => ?_, fun s a b => ?_, fun s => ?_, _, exec_lpFeedn _ _, by decide +kernel⟩
  · obtain ⟨r, hrun⟩ := execAll_lpFeed bytes s
    exact ⟨_, _, _, exec_lpFeedn bytes s, hrun, feedLink_reply bytes s, feedLink_emits bytes s, rfl⟩
  · refine ⟨_, _, _, _, _, exec_lpFeedn a s, exec_lpFeedn b _, exec_lpFeedn (a ++ b) s, ?_, ?_, rfl, rfl, ?_⟩
    · exact s.lp.feedAll_append s.par.ctrW a b
    · simp only [feedLink_emits, s.lp.emittedAll_append s.par.ctrW a b, List.append_assoc]
      rfl
    · exact congrArg Value.frames (s.lp.emittedAll_append s.par.ctrW a b)
  · rw [exec_lpFeedn]
    simp [feedLink, LinkParser.feedAll, LinkParser.emittedAll, State.withLp, State.succeed]

/-! ## The transition table -/

/-- Settles O44: one case for each stage; the rows of a stage are the two sides of its test. -/
theorem feedFollowsTheTransitionTable : Obligations.FeedFollowsTheTransitionTable := by
  unfold Obligations.FeedFollowsTheTransitionTable
  refine ⟨fun _ => rfl, by decide +kernel, ⟨_, exec_lpFeedn _ _, by decide +kernel⟩, fun s b =>
    ⟨_, _, exec_lpFeed b s, rfl, ?_⟩⟩
  simp only [State.succeed_lp, State.withLp_lp]
  generalize s.lp = p
  generalize s.par.ctrW = w
  have hsilent (h : p.stage ≠ .endMark) : p.emitted b = [] := LinkParser.emitted_of_stage_ne b h
  cases hstage : p.stage with
  | wait | hdr1 | hdr2 =>
    rw [LinkParser.feed, hstage]
    exact ⟨hsilent (by simp [hstage]), rfl⟩
  | hdr0 =>
    refine ⟨hsilent (by simp [hstage]), fun hver => ?_, fun hver => ?_⟩
    · rw [LinkParser.feed, hstage]
      exact if_pos hver
    · rw [LinkParser.feed_of_foreignVersion hstage hver]
      exact ⟨⟨rfl, rfl⟩, rfl, rfl, rfl⟩
  | hdr3 =>
    refine ⟨hsilent (by simp [hstage]), fun hzero => ?_, fun hpos hmax => ?_, fun hlong => ?_⟩
    · rw [LinkParser.feed, hstage, hzero]
      rfl
    · have hb : b ≠ 0 := by rintro rfl; exact absurd hpos (by decide)
      simp only [LinkParser.feed, hstage, LinkParser.feedLength, if_neg (Nat.not_lt.mpr hmax), if_neg hb]
    · rw [LinkParser.feed_of_lengthFault ⟨hstage, hlong⟩]
      exact ⟨⟨rfl, rfl⟩, rfl, rfl, rfl⟩
  | payload =>
    refine ⟨hsilent (by simp [hstage]), fun hmore => ?_, fun hlast => ?_⟩
    · simp only [LinkParser.feed, hstage, LinkParser.feedPayload, if_neg hmore.ne]
    · simp only [LinkParser.feed, hstage, LinkParser.feedPayload, if_pos hlast]
  | checksum =>
    refine ⟨hsilent (by simp [hstage]), fun hcrc => ?_, fun hcrc => ?_⟩
    · rw [LinkParser.feed, hstage]
      exact if_pos hcrc
    · rw [LinkParser.feed_of_crcFault ⟨hstage, hcrc⟩]
      exact ⟨⟨rfl, rfl⟩, rfl, rfl, rfl⟩
  | endMark =>
    by_cases hend : b = Config.endByte
    · have hframe : p.emitted b = [p.frame] := if_pos ⟨hstage, hend⟩
      rw [LinkParser.feed_of_end hstage hend, hframe]
      exact ⟨⟨rfl, rfl⟩, rfl, rfl, fun _ => ⟨rfl, rfl⟩, fun hne => absurd hend hne⟩
    · rw [LinkParser.feed_of_framingFault ⟨hstage, hend⟩]
      exact ⟨⟨rfl, rfl⟩, rfl, rfl, fun heq => absurd heq hend, fun _ => ⟨rfl, if_neg fun h => hend h.2⟩⟩

/-! ## What every step keeps -/

/-- Settles O7: the reset state's registers and default parameters are in their ranges. -/
theorem resetIsSound : Obligations.ResetIsSound := by
  unfold Obligations.ResetIsSound
  decide +kernel

/-- A parser in `WAIT` with index 0 is sound if its counters are in range. -/
theorem LinkParser.sound_of_wait {w : Nat} {p : LinkParser} (hwait : p.stage = .wait) (hidx : p.idx = 0)
    (hframing : p.ctrFraming < 2 ^ w) (hlength : p.ctrLength < 2 ^ w) (hcrc : p.ctrCrc < 2 ^ w) : ParserSound w p := by
  simp [ParserSound, hwait, hidx, hframing, hlength, hcrc]

theorem LinkParser.clear_sound (w : Nat) (p : LinkParser) : ParserSound w p.clear :=
  sound_of_wait rfl rfl (Nat.two_pow_pos w) (Nat.two_pow_pos w) (Nat.two_pow_pos w)

/-- A byte keeps the invariants of R213: a header byte finds index 0, a payload byte moves the index up to the length, a
reset goes back to `WAIT`. -/
theorem LinkParser.feed_sound {w : Nat} {p : LinkParser} (b : Byte) (h : ParserSound w p) :
    ParserSound w (p.feed w b) := by
  have ⟨hidx, hpayload, htrailer, hver, hzero, hctrs⟩ := h
  have ⟨hframing, hlength, hcrc⟩ := hctrs
  cases hstage : p.stage with
  | wait =>
    simp only [feed, hstage, feedWait]
    split
    · exact ⟨hidx, by simp, by simp, by simp, fun _ => hzero (by simp [hstage]), hctrs⟩
    · exact h
  | hdr0 =>
    simp only [feed, hstage, feedVersion]
    split
    case isTrue hversion =>
      exact ⟨hidx, by simp, by simp, fun _ => hversion, fun _ => hzero (by simp [hstage]), hctrs⟩
    case isFalse => exact sound_of_wait rfl rfl hframing hlength hcrc
  | hdr1 | hdr2 =>
    simp only [feed, hstage, feedType, feedSeq]
    exact ⟨hidx, by simp, by simp, fun _ => hver (by simp [hstage]), fun _ => hzero (by simp [hstage]), hctrs⟩
  | hdr3 =>
    simp only [feed, hstage, feedLength]
    split
    case isTrue => exact sound_of_wait rfl rfl hframing (bump_lt _ _) hcrc
    case isFalse hmax =>
      have hle : b.toNat ≤ 240 := Nat.le_of_not_lt hmax
      by_cases hempty : b = 0
      · rw [if_pos hempty]
        exact ⟨Nat.zero_le _, by simp, fun _ => ⟨by rw [hempty]; rfl, hle⟩, fun _ => hver (by simp [hstage]),
          fun _ => rfl, hctrs⟩
      · have hpos : 0 < b.toNat := Nat.pos_of_ne_zero fun hzero => hempty (BitVec.eq_of_toNat_eq hzero)
        rw [if_neg hempty]
        exact ⟨Nat.zero_le _, fun _ => ⟨hpos, hle⟩, by simp, fun _ => hver (by simp [hstage]), fun _ => rfl, hctrs⟩
  | payload =>
    obtain ⟨hlt, hmax⟩ := hpayload hstage
    simp only [feed, hstage, feedPayload]
    by_cases hlast : p.idx + 1 = p.len.toNat
    · rw [if_pos hlast]
      exact ⟨hlast.trans_le hmax, by simp, fun _ => ⟨hlast, hmax⟩, fun _ => hver (by simp [hstage]), by simp, hctrs⟩
    · have hmore : p.idx + 1 < p.len.toNat := Nat.lt_of_le_of_ne hlt hlast
      rw [if_neg hlast]
      exact ⟨hmore.le.trans hmax, fun _ => ⟨hmore, hmax⟩, by simp, fun _ => hver (by simp [hstage]), by simp, hctrs⟩
  | checksum =>
    simp only [feed, hstage, feedChecksum]
    split
    · have hidxLen := htrailer (.inl hstage)
      exact ⟨hidx, by simp, fun _ => hidxLen, fun _ => hver (by simp [hstage]), by simp, hctrs⟩
    · exact sound_of_wait rfl rfl hframing hlength (bump_lt _ _)
  | endMark =>
    simp only [feed, hstage, feedEnd]
    split
    · exact sound_of_wait rfl rfl hframing hlength hcrc
    · exact sound_of_wait rfl rfl (bump_lt _ _) hlength hcrc

theorem LinkParser.feedAll_sound {w : Nat} (bytes : List Byte) {p : LinkParser} (h : ParserSound w p) :
    ParserSound w (p.feedAll w bytes) := by
  induction bytes generalizing p with
  | nil => exact h
  | cons b bytes ih => exact ih (feed_sound b h)

theorem exec_keepsParserSound {s t : State} (h : ParserSound s.par.ctrW s.lp) :
    ∀ {i : Instr}, usesParser i = true → exec i s = .next t → ParserSound s.par.ctrW t.lp
  | .lpFeed _, _, rfl | .lpFeedn _, _, rfl => LinkParser.feedAll_sound _ h
  | .lpRst, _, rfl => LinkParser.clear_sound _ _
  | .lfDec _, _, rfl => LinkParser.feedAll_sound _ (LinkParser.clear_sound _ _)
  | .lpRdc n, _, hrun => by
    obtain ⟨-, c, rfl⟩ := execLpRdc_next hrun
    exact h
  | .linkFrame type seq payload, _, hrun => by
    obtain ⟨-, rfl⟩ := execLinkFrame_next hrun
    exact LinkParser.feedAll_sound _ h

theorem sendRequest_sound (slave : Byte) (addr count : U16) {s : State} (h : ModbusSound s.mb) :
    ModbusSound (sendRequest slave addr count s).mb := by
  rcases sendRequest_cases slave addr count s with ⟨-, heq⟩ | ⟨-, heq⟩
  · rw [heq]
    have := count.isLt
    refine ⟨rfl, Nat.zero_le _, ?_, ?_, fun _ => rfl⟩ <;>
      simp only [State.succeed_mb, State.withMb_mb, ModbusPort.start_need] <;> omega
  · rw [heq]
    exact h

/-- A byte is taken only while one is missing. -/
theorem ModbusPort.push_sound (b : Byte) {m : ModbusPort} (h : ModbusSound m) (hmissing : m.cnt ≠ m.need) :
    ModbusSound (m.push b) := by
  obtain ⟨hbuf, hcnt, hmin, hmax, hneed⟩ := h
  exact ⟨by simp [hbuf], Nat.lt_of_le_of_ne hcnt hmissing, hmin, hmax, hneed⟩

theorem receiveBytes_sound (bytes : List Byte) {s : State} (h : ModbusSound s.mb) :
    ModbusSound (receiveBytes bytes s).1.mb := by
  induction bytes generalizing s with
  | nil => exact h
  | cons b bytes ih =>
    unfold receiveBytes
    split
    case isTrue => exact h
    case isFalse henabled => exact ih (ModbusPort.push_sound b h fun hfull => henabled (.inr hfull))

theorem expire_sound (s : State) : ModbusSound (expire s).mb := s.mb.finish_sound

theorem verdict_sound (s : State) : ModbusSound (verdict s).mb := by
  rcases verdict_cases s with ⟨_, -, heq⟩ | ⟨-, heq⟩ <;> rw [heq] <;> exact s.mb.finish_sound

theorem readCall_sound (slave : Byte) (addr count : U16) (rx : List Byte) {s : State} (h : ModbusSound s.mb) :
    ModbusSound (readCall slave addr count rx s).mb := by
  unfold readCall
  dsimp only
  split
  · exact sendRequest_sound slave addr count h
  · split
    · exact expire_sound _
    · exact verdict_sound _

theorem exec_keepsModbusSound {s t : State} (h : ModbusSound s.mb) :
    ∀ {i : Instr}, usesModbus i = true → exec i s = .next t → ModbusSound t.mb
  | .mbReq slave addr count, _, hrun | .mbReqAdu slave addr count, _, hrun => by
    obtain ⟨-, -, rfl⟩ := guardRequest_next hrun
    exact sendRequest_sound slave addr count h
  | .mbRxb b, _, hrun => by
    obtain ⟨-, hmissing, rfl⟩ := offerByte_next hrun
    exact ModbusPort.push_sound b h hmissing
  | .mbTmo, _, hrun => by
    obtain ⟨-, -, rfl⟩ := execMbTmo_next hrun
    exact expire_sound s
  | .mbChk, _, hrun => by
    obtain ⟨-, -, rfl⟩ := execMbChk_next hrun
    exact verdict_sound s
  | .mbRead slave addr count rx, _, hrun => by
    obtain ⟨-, -, rfl⟩ := guardRequest_next hrun
    exact readCall_sound slave addr count rx h
  | .mbRspAdu slave words, _, hrun => by
    obtain ⟨-, rfl⟩ := execMbRspAdu_next hrun
    exact receiveBytes_sound _ h

/-- Every instruction keeps the invariant of the block: its own sub-unit's, and the others' by its frame (R66). -/
theorem exec_keepsSound {i : Instr} {s t : State} (h : Sound s) (hrun : exec i s = .next t) : Sound t := by
  obtain ⟨hpar, hmb, hlp⟩ := h
  rcases instr_kind i with hi | hi | hi | hi
  · have hframe := exec_writesOnlyCrc hi hrun
    rw [Sound, hframe.par, hframe.mb, hframe.lp]
    exact ⟨hpar, hmb, hlp⟩
  · have hframe := exec_writesOnlyModbus hi hrun
    rw [Sound, hframe.par, hframe.lp]
    exact ⟨hpar, exec_keepsModbusSound hmb hi hrun, hlp⟩
  · have hframe := exec_writesOnlyParser hi hrun
    rw [Sound, hframe.par, hframe.mb]
    exact ⟨hpar, hmb, exec_keepsParserSound hlp hi hrun⟩
  · have hframe := exec_writesOnlyLinkTx hi hrun
    rw [Sound, hframe.par, hframe.mb, hframe.lp]
    exact ⟨hpar, hmb, hlp⟩

/-- Settles O8: a step executes the operation at the port, and moving the port touches no register. -/
theorem everyStepKeepsTheBlockSound : Obligations.EveryStepKeepsTheBlockSound := by
  unfold Obligations.EveryStepKeepsTheBlockSound
  intro s t hsound hstep
  cases hdecode : decode s.port with
  | ok next =>
    rw [step_of_decode hdecode] at hstep
    exact exec_keepsSound (s := s.withPort next.2) hsound hstep
  | error e =>
    rw [step_of_decode_error hdecode] at hstep
    cases hstep

end Sys2Proof.Machine

/-! # Exceptions: the codes on the result-status output

An operation that completes shows the code of its status, which is ok or a failure of one of seven kinds; a refused
operation shows 0xFF (spec/60_exceptions.md R221). -/

namespace Sys2Proof.Machine

@[simp] theorem statusCode_ok : statusCode .ok = 0x00 := rfl

@[simp] theorem statusCode_failed (kind : ErrKind) : statusCode (.failed kind) = errCode kind := rfl

@[simp] theorem outcomeCode_next (s : State) : outcomeCode (.next s) = statusCode s.reply.status := rfl

@[simp] theorem outcomeCode_refused (r : Refusal) : outcomeCode (.refused r) = 0xFF := rfl

/-- Settles O12: a failure shows its row of `errCode`, which is R221's table; ok, refused and completed operations show
what the equations above say. -/
theorem resultStatusCodes : Obligations.ResultStatusCodes := by
  unfold Obligations.ResultStatusCodes
  exact ⟨statusCode_ok, statusCode_failed .errWrite, statusCode_failed .errTimeout, statusCode_failed .errCrc16,
    statusCode_failed .errAddrFunc, statusCode_failed .errLength, statusCode_failed .errPayloadLen,
    statusCode_failed .errFbLen, outcomeCode_refused, outcomeCode_next⟩

end Sys2Proof.Machine
